-- ==== Sys2Proof/Word.lean ====
section
/-! DEFINITION. The widths of the machine's values: bytes, 16-bit words, 12-bit addresses, register indices. -/

namespace Sys2Proof

/-- An 8-bit value: a general register, a timer, a memory cell, an immediate `kk` (R21, R28, R50, R71). -/
abbrev Byte := BitVec 8

/-- A 16-bit value: an instruction word, `I`, `pc`, a return address (R23, R24, R26, R70). -/
abbrev Word := BitVec 16

/-- The 12-bit address field `nnn` (R71). -/
abbrev Addr12 := BitVec 12

/-- A register index `x` or `y`, 0..15: a 4-bit field names nothing else (R71, R83). -/
abbrev Reg := Fin 16

/-- The sprite height `n`, 0..15 (R71, R141). -/
abbrev Height := Fin 16

/-- The word of four hexadecimal digits, most significant first: how the patterns of R75 are written (`8xy4`). -/
def hexWord (a b c d : Nat) : Word := BitVec.ofNat 16 (a * 4096 + b * 256 + c * 16 + d)

/-- A pattern `axkk` of R75: two hexadecimal digits and a byte. -/
def hexWordKk (a b : Nat) (kk : Byte) : Word := BitVec.ofNat 16 (a * 4096 + b * 256 + kk.toNat)

/-- A pattern `annn` of R75: a hexadecimal digit and a 12-bit address. -/
def hexWordNnn (a : Nat) (nnn : Addr12) : Word := BitVec.ofNat 16 (a * 4096 + nnn.toNat)

end Sys2Proof
end

