-- ==== Sys2Proof/Config.lean ====
section
/-! DEFINITION. What is fixed for one machine: the parameters of 00_scope.md §3 (R4 to R11), each kept open where the
spec keeps it open, and the free value of the one non-deterministic instruction (R17). -/

namespace Sys2Proof

/-- The 35 instruction kinds, named as the `variant` column of the opcode table names them (R10, R75). -/
inductive Variant
  | CLS | RET | SYS | JP | CALL
  | SE_VX_KK | SNE_VX_KK | SE_VX_VY | LD_VX_KK | ADD_VX_KK
  | LD_VX_VY | OR_VX_VY | AND_VX_VY | XOR_VX_VY | ADD_VX_VY
  | SUB_VX_VY | SHR_VX_VY | SUBN_VX_VY | SHL_VX_VY | SNE_VX_VY
  | LD_I_NNN | JP_V0_NNN | RND_VX_KK | DRW_VX_VY_N | SKP_VX
  | SKNP_VX | LD_VX_DT | LD_VX_K | LD_DT_VX | LD_ST_VX
  | ADD_I_VX | LD_F_VX | LD_B_VX | LD_I_VX | LD_VX_I
deriving DecidableEq, Repr

/-- Which register supplies the bit the shifts put into VF (R11). -/
inductive ShiftFlagSrc
  | vy
  | vx
deriving DecidableEq, Repr

/-- The place of a variant's cost in `Config.costLess1`: the row of spec/opcode_table.json, counted from 0. -/
def Variant.row : Variant → Fin 35
  | .CLS => 0 | .RET => 1 | .SYS => 2 | .JP => 3 | .CALL => 4
  | .SE_VX_KK => 5 | .SNE_VX_KK => 6 | .SE_VX_VY => 7 | .LD_VX_KK => 8 | .ADD_VX_KK => 9
  | .LD_VX_VY => 10 | .OR_VX_VY => 11 | .AND_VX_VY => 12 | .XOR_VX_VY => 13 | .ADD_VX_VY => 14
  | .SUB_VX_VY => 15 | .SHR_VX_VY => 16 | .SUBN_VX_VY => 17 | .SHL_VX_VY => 18 | .SNE_VX_VY => 19
  | .LD_I_NNN => 20 | .JP_V0_NNN => 21 | .RND_VX_KK => 22 | .DRW_VX_VY_N => 23 | .SKP_VX => 24
  | .SKNP_VX => 25 | .LD_VX_DT => 26 | .LD_VX_K => 27 | .LD_DT_VX => 28 | .LD_ST_VX => 29
  | .ADD_I_VX => 30 | .LD_F_VX => 31 | .LD_B_VX => 32 | .LD_I_VX => 33 | .LD_VX_I => 34

/-- The parameters of one machine (the summary table of 00_scope.md §3). Every value of this type is a legal choice and
every legal choice is a value of it: the constraints of R4, R6 and R10 are built into how the fields are held. -/
structure Config where
  /-- `MEM_SIZE - 0x202`, so that `0x202 ≤ MEM_SIZE ≤ 0x1000` (R4). -/
  memExtra : Fin 0xDFF
  /-- `FONT_BASE`, with `FONT_BASE + 80 ≤ 0x200` (R6). -/
  fontBase : Fin 0x1B1
  /-- `FONT`: the 80 glyph bytes (R6, R32). -/
  font : Vector Byte 80
  /-- `COST(v) - 1` for each variant `v`, so that every cost is at least 1 (R10). -/
  costLess1 : Vector Nat 35
  /-- `SHIFT_FLAG_SRC` (R11). -/
  shiftFlagSrc : ShiftFlagSrc
deriving DecidableEq, Repr

/-- The least `MEM_SIZE` R4 allows. -/
def minMemSize : Nat := 0x202

/-- `MEM_SIZE` (R4). -/
def Config.memSize (c : Config) : Nat := c.memExtra.val + minMemSize

/-- `COST(v)`, in microseconds: a function of the variant alone, at least 1 (R10). -/
def Config.cost (c : Config) (v : Variant) : Nat := c.costLess1[(v.row).val] + 1

/-- `LOAD_ADDR` (R5). -/
def loadAddr : Nat := 0x200

/-- `STACK_DEPTH` (R7). -/
def stackDepth : Nat := 16

/-- `FRAME_US` (R9). -/
def frameUs : Int := 16666

/-- The conventional hexadecimal font, the spec's default for `FONT` (R32). -/
def conventionalFont : Vector Byte 80 :=
  ⟨([0xF0, 0x90, 0x90, 0x90, 0xF0, 0x20, 0x60, 0x20, 0x20, 0x70] ++
    [0xF0, 0x10, 0xF0, 0x80, 0xF0, 0xF0, 0x10, 0xF0, 0x10, 0xF0] ++
    [0x90, 0x90, 0xF0, 0x10, 0x10, 0xF0, 0x80, 0xF0, 0x10, 0xF0] ++
    [0xF0, 0x80, 0xF0, 0x90, 0xF0, 0xF0, 0x10, 0x20, 0x40, 0x40] ++
    [0xF0, 0x90, 0xF0, 0x90, 0xF0, 0xF0, 0x90, 0xF0, 0x10, 0xF0] ++
    [0xF0, 0x90, 0xF0, 0x90, 0x90, 0xE0, 0x90, 0xE0, 0x90, 0xE0] ++
    [0xF0, 0x80, 0x80, 0x80, 0xF0, 0xE0, 0x90, 0x90, 0x90, 0xE0] ++
    [0xF0, 0x80, 0xF0, 0x80, 0xF0, 0xF0, 0x80, 0xF0, 0x80, 0x80] : List Byte).toArray, by decide⟩

/-- The open `MEM_SIZE` of the machine at reset, less 0x202: no value is chosen (R4, log entry 1). -/
opaque Config.openMemExtra : Fin 0xDFF

/-- The open `FONT_BASE` of the machine at reset: no value is chosen (R6, log entry 1). -/
opaque Config.openFontBase : Fin 0x1B1

/-- The open `COST` table of the machine at reset, each entry less 1: no value is chosen (R10, log entry 1). -/
opaque Config.openCostLess1 : Vector Nat 35

/-- `Draw8()`: the byte the `k`-th draw of a run gives. A free value: nothing constrains it (R17, log entry 4). -/
opaque Config.draw8 : Nat → Byte

/-- The parameters State.reset carries: the spec's defaults for `FONT` and `SHIFT_FLAG_SRC`, which have one (R6, R11),
the open constants for the others (log entry 1). -/
def Config.machine : Config :=
  { memExtra := Config.openMemExtra
    fontBase := Config.openFontBase
    font := conventionalFont
    costLess1 := Config.openCostLess1
    shiftFlagSrc := .vy }

end Sys2Proof
end

