-- ==== Sys2Proof/Syntax.lean ====
section
/-! DEFINITION. The instruction set as syntax: one constructor for each of the 35 rows of the opcode table (R75). -/

namespace Sys2Proof

/-- An instruction with its operand fields (R71, R72, R75). The order is that of spec/opcode_table.json. -/
inductive Instr
  /-- `00E0` CLS -/
  | cls
  /-- `00EE` RET -/
  | ret
  /-- `0nnn` SYS nnn, any word of family 0 but CLS and RET -/
  | sys (nnn : Addr12)
  /-- `1nnn` JP nnn -/
  | jp (nnn : Addr12)
  /-- `2nnn` CALL nnn -/
  | call (nnn : Addr12)
  /-- `3xkk` SE Vx, kk -/
  | seImm (x : Reg) (kk : Byte)
  /-- `4xkk` SNE Vx, kk -/
  | sneImm (x : Reg) (kk : Byte)
  /-- `5xy0` SE Vx, Vy -/
  | seReg (x y : Reg)
  /-- `6xkk` LD Vx, kk -/
  | ldImm (x : Reg) (kk : Byte)
  /-- `7xkk` ADD Vx, kk -/
  | addImm (x : Reg) (kk : Byte)
  /-- `8xy0` LD Vx, Vy -/
  | ldReg (x y : Reg)
  /-- `8xy1` OR Vx, Vy -/
  | orReg (x y : Reg)
  /-- `8xy2` AND Vx, Vy -/
  | andReg (x y : Reg)
  /-- `8xy3` XOR Vx, Vy -/
  | xorReg (x y : Reg)
  /-- `8xy4` ADD Vx, Vy -/
  | addReg (x y : Reg)
  /-- `8xy5` SUB Vx, Vy -/
  | sub (x y : Reg)
  /-- `8xy6` SHR Vx, Vy -/
  | shr (x y : Reg)
  /-- `8xy7` SUBN Vx, Vy -/
  | subn (x y : Reg)
  /-- `8xyE` SHL Vx, Vy -/
  | shl (x y : Reg)
  /-- `9xy0` SNE Vx, Vy -/
  | sneReg (x y : Reg)
  /-- `Annn` LD I, nnn -/
  | ldI (nnn : Addr12)
  /-- `Bnnn` JP V0, nnn -/
  | jpV0 (nnn : Addr12)
  /-- `Cxkk` RND Vx, kk -/
  | rnd (x : Reg) (kk : Byte)
  /-- `Dxyn` DRW Vx, Vy, n -/
  | drw (x y : Reg) (n : Height)
  /-- `Ex9E` SKP Vx -/
  | skp (x : Reg)
  /-- `ExA1` SKNP Vx -/
  | sknp (x : Reg)
  /-- `Fx07` LD Vx, DT -/
  | ldVxDT (x : Reg)
  /-- `Fx0A` LD Vx, K -/
  | ldVxK (x : Reg)
  /-- `Fx15` LD DT, Vx -/
  | ldDTVx (x : Reg)
  /-- `Fx18` LD ST, Vx -/
  | ldSTVx (x : Reg)
  /-- `Fx1E` ADD I, Vx -/
  | addI (x : Reg)
  /-- `Fx29` LD F, Vx -/
  | ldF (x : Reg)
  /-- `Fx33` LD B, Vx -/
  | ldB (x : Reg)
  /-- `Fx55` LD [I], Vx -/
  | dumpRegs (x : Reg)
  /-- `Fx65` LD Vx, [I] -/
  | loadRegs (x : Reg)
deriving DecidableEq, Repr

/-- The variant an instruction belongs to (the name by which `COST` is looked up, R10). -/
def Instr.variant : Instr → Variant
  | .cls => .CLS
  | .ret => .RET
  | .sys _ => .SYS
  | .jp _ => .JP
  | .call _ => .CALL
  | .seImm _ _ => .SE_VX_KK
  | .sneImm _ _ => .SNE_VX_KK
  | .seReg _ _ => .SE_VX_VY
  | .ldImm _ _ => .LD_VX_KK
  | .addImm _ _ => .ADD_VX_KK
  | .ldReg _ _ => .LD_VX_VY
  | .orReg _ _ => .OR_VX_VY
  | .andReg _ _ => .AND_VX_VY
  | .xorReg _ _ => .XOR_VX_VY
  | .addReg _ _ => .ADD_VX_VY
  | .sub _ _ => .SUB_VX_VY
  | .shr _ _ => .SHR_VX_VY
  | .subn _ _ => .SUBN_VX_VY
  | .shl _ _ => .SHL_VX_VY
  | .sneReg _ _ => .SNE_VX_VY
  | .ldI _ => .LD_I_NNN
  | .jpV0 _ => .JP_V0_NNN
  | .rnd _ _ => .RND_VX_KK
  | .drw _ _ _ => .DRW_VX_VY_N
  | .skp _ => .SKP_VX
  | .sknp _ => .SKNP_VX
  | .ldVxDT _ => .LD_VX_DT
  | .ldVxK _ => .LD_VX_K
  | .ldDTVx _ => .LD_DT_VX
  | .ldSTVx _ => .LD_ST_VX
  | .addI _ => .ADD_I_VX
  | .ldF _ => .LD_F_VX
  | .ldB _ => .LD_B_VX
  | .dumpRegs _ => .LD_I_VX
  | .loadRegs _ => .LD_VX_I

end Sys2Proof
end

