-- ==== Sys2Proof/Decode.lean ====
section
/-! DEFINITION. The decoder (R70 to R82), total on words and on bytes, refusing by name; the encoder, written from the same
tables; the opcode table as rows of match and mask. -/

namespace Sys2Proof

/-- Why bytes are no instruction. -/
inductive DecodeError
  /-- The word matches no row of the opcode table (R81). -/
  | unknownOpcode (w : Word)
  /-- Fewer than two bytes: no word (R70). -/
  | truncated
deriving DecidableEq, Repr

/-- `op = w[15:12]`, the family selector (R71). -/
def fieldOp (w : Word) : Nat := (w.extractLsb' 12 4).toNat

/-- `x = w[11:8]` (R71). -/
def fieldX (w : Word) : Reg := ⟨(w.extractLsb' 8 4).toNat, (w.extractLsb' 8 4).isLt⟩

/-- `y = w[7:4]` (R71). -/
def fieldY (w : Word) : Reg := ⟨(w.extractLsb' 4 4).toNat, (w.extractLsb' 4 4).isLt⟩

/-- `n = w[3:0]` (R71). -/
def fieldN (w : Word) : Height := ⟨(w.extractLsb' 0 4).toNat, (w.extractLsb' 0 4).isLt⟩

/-- `kk = w[7:0]` (R71). -/
def fieldKk (w : Word) : Byte := w.extractLsb' 0 8

/-- `nnn = w[11:0]` (R71). -/
def fieldNnn (w : Word) : Addr12 := w.extractLsb' 0 12

/-- Family 0: CLS and RET on all 16 bits, every other word SYS (R76). -/
def decodeFamily0 (w : Word) : Instr :=
  if w = 0x00E0#16 then .cls else if w = 0x00EE#16 then .ret else .sys (fieldNnn w)

/-- Family 8: the secondary match is on the low nibble (R77). -/
def decodeFamily8 (w : Word) : Except DecodeError Instr :=
  match (fieldN w).val with
  | 0x0 => .ok (.ldReg (fieldX w) (fieldY w))
  | 0x1 => .ok (.orReg (fieldX w) (fieldY w))
  | 0x2 => .ok (.andReg (fieldX w) (fieldY w))
  | 0x3 => .ok (.xorReg (fieldX w) (fieldY w))
  | 0x4 => .ok (.addReg (fieldX w) (fieldY w))
  | 0x5 => .ok (.sub (fieldX w) (fieldY w))
  | 0x6 => .ok (.shr (fieldX w) (fieldY w))
  | 0x7 => .ok (.subn (fieldX w) (fieldY w))
  | 0xE => .ok (.shl (fieldX w) (fieldY w))
  | _ => .error (.unknownOpcode w)

/-- Family E: the secondary match is on the low byte (R78). -/
def decodeFamilyE (w : Word) : Except DecodeError Instr :=
  match (fieldKk w).toNat with
  | 0x9E => .ok (.skp (fieldX w))
  | 0xA1 => .ok (.sknp (fieldX w))
  | _ => .error (.unknownOpcode w)

/-- Family F: the secondary match is on the low byte (R79). -/
def decodeFamilyF (w : Word) : Except DecodeError Instr :=
  match (fieldKk w).toNat with
  | 0x07 => .ok (.ldVxDT (fieldX w))
  | 0x0A => .ok (.ldVxK (fieldX w))
  | 0x15 => .ok (.ldDTVx (fieldX w))
  | 0x18 => .ok (.ldSTVx (fieldX w))
  | 0x1E => .ok (.addI (fieldX w))
  | 0x29 => .ok (.ldF (fieldX w))
  | 0x33 => .ok (.ldB (fieldX w))
  | 0x55 => .ok (.dumpRegs (fieldX w))
  | 0x65 => .ok (.loadRegs (fieldX w))
  | _ => .error (.unknownOpcode w)

/-- The decoder: a pure function of the word, two-level (R70, R74). Families 5 and 9 also ask for `n = 0` (R80). -/
def decodeWord (w : Word) : Except DecodeError Instr :=
  match fieldOp w with
  | 0x0 => .ok (decodeFamily0 w)
  | 0x1 => .ok (.jp (fieldNnn w))
  | 0x2 => .ok (.call (fieldNnn w))
  | 0x3 => .ok (.seImm (fieldX w) (fieldKk w))
  | 0x4 => .ok (.sneImm (fieldX w) (fieldKk w))
  | 0x5 => if fieldN w = 0 then .ok (.seReg (fieldX w) (fieldY w)) else .error (.unknownOpcode w)
  | 0x6 => .ok (.ldImm (fieldX w) (fieldKk w))
  | 0x7 => .ok (.addImm (fieldX w) (fieldKk w))
  | 0x8 => decodeFamily8 w
  | 0x9 => if fieldN w = 0 then .ok (.sneReg (fieldX w) (fieldY w)) else .error (.unknownOpcode w)
  | 0xA => .ok (.ldI (fieldNnn w))
  | 0xB => .ok (.jpV0 (fieldNnn w))
  | 0xC => .ok (.rnd (fieldX w) (fieldKk w))
  | 0xD => .ok (.drw (fieldX w) (fieldY w) (fieldN w))
  | 0xE => decodeFamilyE w
  | 0xF => decodeFamilyF w
  | _ => .error (.unknownOpcode w)

/-- The word two bytes form, the byte at the lower address first: `{hi, lo}` (R52). -/
def wordOfBytes (hi lo : Byte) : Word := hi ++ lo

/-- The high byte of a word, the one stored at the lower address (R52). -/
def hiByte (w : Word) : Byte := w.extractLsb' 8 8

/-- The low byte of a word. -/
def loByte (w : Word) : Byte := w.extractLsb' 0 8

/-- Decoding from bytes: the instruction of the first two bytes, and the bytes after them (R52, R70). -/
def decode : List Byte → Except DecodeError (Instr × List Byte)
  | hi :: lo :: rest =>
    match decodeWord (wordOfBytes hi lo) with
    | .ok i => .ok (i, rest)
    | .error e => .error e
  | _ => .error .truncated

/-- A register index as the 4-bit field that holds it (R71). -/
def nibble (r : Fin 16) : BitVec 4 := BitVec.ofNat 4 r.val

/-- Format ADDR: `op(4) nnn(12)` (R72). -/
def formatAddr (op : BitVec 4) (nnn : Addr12) : Word := op ++ nnn

/-- Format XKK: `op(4) x(4) kk(8)` (R72). -/
def formatXkk (op : BitVec 4) (x : Reg) (kk : Byte) : Word := (op ++ nibble x : BitVec 8) ++ kk

/-- Formats XY and XYN: `op(4) x(4) y(4) n(4)` (R72). -/
def formatXyn (op : BitVec 4) (x y : Reg) (n : Fin 16) : Word :=
  (op ++ nibble x : BitVec 8) ++ (nibble y ++ nibble n : BitVec 8)

/-- The word of an instruction, by the patterns of R75. -/
def encode : Instr → Word
  | .cls => formatAddr 0x0 0x0E0
  | .ret => formatAddr 0x0 0x0EE
  | .sys nnn => formatAddr 0x0 nnn
  | .jp nnn => formatAddr 0x1 nnn
  | .call nnn => formatAddr 0x2 nnn
  | .seImm x kk => formatXkk 0x3 x kk
  | .sneImm x kk => formatXkk 0x4 x kk
  | .seReg x y => formatXyn 0x5 x y 0x0
  | .ldImm x kk => formatXkk 0x6 x kk
  | .addImm x kk => formatXkk 0x7 x kk
  | .ldReg x y => formatXyn 0x8 x y 0x0
  | .orReg x y => formatXyn 0x8 x y 0x1
  | .andReg x y => formatXyn 0x8 x y 0x2
  | .xorReg x y => formatXyn 0x8 x y 0x3
  | .addReg x y => formatXyn 0x8 x y 0x4
  | .sub x y => formatXyn 0x8 x y 0x5
  | .shr x y => formatXyn 0x8 x y 0x6
  | .subn x y => formatXyn 0x8 x y 0x7
  | .shl x y => formatXyn 0x8 x y 0xE
  | .sneReg x y => formatXyn 0x9 x y 0x0
  | .ldI nnn => formatAddr 0xA nnn
  | .jpV0 nnn => formatAddr 0xB nnn
  | .rnd x kk => formatXkk 0xC x kk
  | .drw x y n => formatXyn 0xD x y n
  | .skp x => formatXkk 0xE x 0x9E
  | .sknp x => formatXkk 0xE x 0xA1
  | .ldVxDT x => formatXkk 0xF x 0x07
  | .ldVxK x => formatXkk 0xF x 0x0A
  | .ldDTVx x => formatXkk 0xF x 0x15
  | .ldSTVx x => formatXkk 0xF x 0x18
  | .addI x => formatXkk 0xF x 0x1E
  | .ldF x => formatXkk 0xF x 0x29
  | .ldB x => formatXkk 0xF x 0x33
  | .dumpRegs x => formatXkk 0xF x 0x55
  | .loadRegs x => formatXkk 0xF x 0x65

/-- The two bytes of an instruction as memory holds them (R52). -/
def encodeBytes (i : Instr) : List Byte := [hiByte (encode i), loByte (encode i)]

/-- One row of spec/opcode_table.json: a word `w` is of the row's variant when `w & mask = match`. -/
structure OpcodeRow where
  variant : Variant
  pattern : Word
  mask : Word
deriving DecidableEq, Repr

/-- The opcode table, in priority order: the first row that matches wins (R82). -/
def opcodeTable : List OpcodeRow :=
  [⟨.CLS, 0x00E0, 0xFFFF⟩, ⟨.RET, 0x00EE, 0xFFFF⟩, ⟨.SYS, 0x0000, 0xF000⟩, ⟨.JP, 0x1000, 0xF000⟩,
   ⟨.CALL, 0x2000, 0xF000⟩, ⟨.SE_VX_KK, 0x3000, 0xF000⟩, ⟨.SNE_VX_KK, 0x4000, 0xF000⟩, ⟨.SE_VX_VY, 0x5000, 0xF00F⟩,
   ⟨.LD_VX_KK, 0x6000, 0xF000⟩, ⟨.ADD_VX_KK, 0x7000, 0xF000⟩] ++
  [⟨.LD_VX_VY, 0x8000, 0xF00F⟩, ⟨.OR_VX_VY, 0x8001, 0xF00F⟩, ⟨.AND_VX_VY, 0x8002, 0xF00F⟩, ⟨.XOR_VX_VY, 0x8003, 0xF00F⟩,
   ⟨.ADD_VX_VY, 0x8004, 0xF00F⟩, ⟨.SUB_VX_VY, 0x8005, 0xF00F⟩, ⟨.SHR_VX_VY, 0x8006, 0xF00F⟩, ⟨.SUBN_VX_VY, 0x8007, 0xF00F⟩,
   ⟨.SHL_VX_VY, 0x800E, 0xF00F⟩, ⟨.SNE_VX_VY, 0x9000, 0xF00F⟩] ++
  [⟨.LD_I_NNN, 0xA000, 0xF000⟩, ⟨.JP_V0_NNN, 0xB000, 0xF000⟩, ⟨.RND_VX_KK, 0xC000, 0xF000⟩, ⟨.DRW_VX_VY_N, 0xD000, 0xF000⟩,
   ⟨.SKP_VX, 0xE09E, 0xF0FF⟩, ⟨.SKNP_VX, 0xE0A1, 0xF0FF⟩] ++
  [⟨.LD_VX_DT, 0xF007, 0xF0FF⟩, ⟨.LD_VX_K, 0xF00A, 0xF0FF⟩, ⟨.LD_DT_VX, 0xF015, 0xF0FF⟩, ⟨.LD_ST_VX, 0xF018, 0xF0FF⟩,
   ⟨.ADD_I_VX, 0xF01E, 0xF0FF⟩, ⟨.LD_F_VX, 0xF029, 0xF0FF⟩, ⟨.LD_B_VX, 0xF033, 0xF0FF⟩, ⟨.LD_I_VX, 0xF055, 0xF0FF⟩,
   ⟨.LD_VX_I, 0xF065, 0xF0FF⟩]

/-- The variant the table gives a word, none where no row matches (R75, R81, R82). -/
def tableVariant (w : Word) : Option Variant :=
  (opcodeTable.find? fun r => w &&& r.mask == r.pattern).map (·.variant)

/-- The bytes, as memory holds them, of an instruction whose bits the opcode table numbers as `w`, of which it gives `nbits`. -/
def tableBytes (nbits w : Nat) : List Byte :=
  let word : Word := BitVec.ofNat 16 (w % 2 ^ nbits)
  [hiByte word, loByte word]

/-- The instruction the decoder reads from the table's bits `w` (host interface). -/
def decodeTableWord (nbits w : Nat) : Option Instr :=
  match decode (tableBytes nbits w) with
  | .ok (i, _) => some i
  | .error _ => none

end Sys2Proof
end

