-- ==== Sys2Proof/Machine/State.lean ====
section
/-! DEFINITION. The machine's state as plain data (R20, R34), the host's calls and what they are answered (R180), the
errors (R200), the reasons a step can stop, and the state after reset (R36). -/

namespace Sys2Proof.Machine

/-- The four situations the source gives no behaviour (R207). -/
inductive UnspecifiedTag
  /-- A fetch with `pc = MEM_SIZE - 1` (R56). -/
  | fetchStraddle
  /-- A data access at or above `MEM_SIZE` (R55). -/
  | dataOob
  /-- `SKP` or `SKNP` with `V[x] ≥ 0x10` (R150). -/
  | keyIndex
  /-- `LD F, Vx` with `V[x] > 0x0F` (R165). -/
  | fontDigit
deriving DecidableEq, Repr

/-- The errors of 60_exceptions.md §1, by the document's names. -/
inductive FatalError
  /-- The fetch found `pc ≥ MEM_SIZE`; the payload is that `pc` (R201). -/
  | programCounterOutOfBounds (pc : Word)
  /-- The word matches no row, or is SYS (R202). -/
  | unknownOpcode (w : Word)
  /-- Unreachable: every register index is a 4-bit field (R83, R203). -/
  | registerIndexOutOfRange
  /-- `CALL` with 16 return addresses held (R204). -/
  | stackOverflow
  /-- `RET` with none held (R205). -/
  | stackUnderflow
  /-- Behaviour the source does not define, reported like the source's own errors (R207, log entry 5). -/
  | unspecified (tag : UnspecifiedTag)
  /-- `RESET` of a program that does not fit (R206). -/
  | programTooLarge
deriving DecidableEq, Repr

/-- Why a step stops the machine for good. No step does: every error of the spec ends a `CYCLE` and is returned to the host,
who may go on (R211 to R213). -/
inductive Fault
  /-- Raised by no meaning and no step: `Unspecified(tag)` is taken as an error (`FatalError.unspecified`, log entry 5). Safe. -/
  | unspecified (tag : UnspecifiedTag)
deriving DecidableEq, Repr

/-- Why an instruction has no meaning in the model. -/
inductive Refusal
  /-- Raised by an arm of exec whose instruction has no meaning yet; safe. No arm does. -/
  | notModelled (mnemonic : String)
deriving DecidableEq, Repr

/-- The scheduler's two control points (R34, R196). -/
inductive Phase
  /-- Between two host operations. -/
  | idle
  /-- Inside a `CYCLE`, in its drain loop. -/
  | draining
deriving DecidableEq, Repr

/-- The host's four operations (R180). -/
inductive HostOp
  | reset (program : List Byte)
  /-- Bit `k` of the snapshot is key `k`. -/
  | cycle (snapshot : BitVec 16)
  | fbRead
  | toneRead
deriving DecidableEq, Repr

/-- What a host operation is answered (the `result` column of R180). -/
inductive Reply
  /-- `RESET` made a fresh machine. -/
  | machineReady
  /-- `RESET` failed (R231). -/
  | loadFailed (e : FatalError)
  /-- `CYCLE` returned nothing (R181). -/
  | cycleDone
  /-- `CYCLE` returned this error (R189, R211). -/
  | cycleFailed (e : FatalError)
  /-- `FB_READ`: the 256 bytes in index order (R190). -/
  | bitmap (bytes : Vector Byte 256)
  /-- `TONE_READ` (R191). -/
  | tone (pulse : Bool)
deriving DecidableEq, Repr

/-- The memory image `Mem` as the cells that differ from what they hold after reset, in rising order of address (R32, R50). -/
abbrev Memory := List Host.Cell

/-- The framebuffer: 256 bytes, 8 bytes to a row (R30, R31). -/
abbrev Framebuffer := Vector Byte 256

/-- The machine state of R20 and R34, then four fields of the model's own: the parameters of this machine (log entry 1), the
number of random bytes drawn (log entry 4), and the host agent's calls still to come and the answers it has had (log entry 3). -/
structure State where
  /-- `V[0..15]` (R21); `V[15]` is the flag register (R22). -/
  v : Vector Byte 16
  /-- `I` (R23). -/
  i : Word
  /-- `pc` (R24). -/
  pc : Word
  /-- `stack[0..15]` (R26). -/
  stack : Vector Word 16
  /-- `sp`: the number of valid entries, 0..16 (R26). -/
  sp : Fin 17
  /-- `keys[0..15]`: pressed or not (R27). -/
  keys : Vector Bool 16
  /-- `DT` (R28). -/
  dt : Byte
  /-- `ST` (R28). -/
  st : Byte
  /-- `tone` (R29). -/
  tone : Bool
  /-- `FB[0..255]` (R30). -/
  fb : Framebuffer
  /-- `Mem[0..MEM_SIZE-1]` (R32). -/
  mem : Memory
  /-- `budget`, in microseconds (R33). -/
  budget : Int
  /-- The scheduler's control point (R34). -/
  phase : Phase
  /-- The parameters, fixed for the life of the machine (R35). -/
  cfg : Config
  /-- How many times `Draw8()` has been called (R17). -/
  draws : Nat
  /-- The operations the host will invoke, next first (R180, R192). -/
  calls : List HostOp
  /-- The answers the host has had, latest first (R180). -/
  replies : List Reply
deriving DecidableEq, Repr

/-- A zero-initialised machine with its font and no program (R36 with an empty program): no memory cell differs from its
reset content. -/
def State.blank (c : Config) : State :=
  { v := Vector.replicate 16 0
    i := 0
    pc := 0x200
    stack := Vector.replicate 16 0
    sp := 0
    keys := Vector.replicate 16 false
    dt := 0
    st := 0
    tone := false
    fb := Vector.replicate 256 0
    mem := []
    budget := 0
    phase := .idle
    cfg := c
    draws := 0
    calls := []
    replies := [] }

/-- The machine right after `RESET` of an empty program (R36, R230), its open parameters left open. -/
def State.reset : State := State.blank Config.machine

end Sys2Proof.Machine
end

