-- ==== Sys2Proof/Machine/Ops.lean ====
section
/-! DEFINITION. The named operations over memory, registers, the program counter, the call stack and the budget; taking an
error (R211). -/

namespace Sys2Proof.Machine

/-! ### Memory -/

/-- The address exists: it is below `MEM_SIZE` (R50, R51). The first test answers for the addresses every `MEM_SIZE` has. -/
def hasAddr (c : Config) (a : Nat) : Bool := decide (a < minMemSize) || decide (a < c.memSize)

/-- `n` bytes from `a` on all exist; no byte is needed when `n = 0` (R55, R141). -/
def blockFits (c : Config) (a n : Nat) : Bool := n == 0 || hasAddr c (a + n - 1)

/-- The byte at `FONT_BASE + k` after reset (R233), zero outside the 80 font bytes. -/
def fontByte (c : Config) (k : Nat) : Byte := if h : k < 80 then c.font[k] else 0

/-- What an address holds that nothing has written since reset: a font byte, else zero (R36, R51). The font ends below
`LOAD_ADDR` (R6). -/
def unwritten (c : Config) (a : Nat) : Byte :=
  if loadAddr ≤ a then 0 else if c.fontBase.val ≤ a then fontByte c (a - c.fontBase.val) else 0

/-- The cell listed for an address, if one is. -/
def Memory.lookup : Memory → Nat → Option Byte
  | [], _ => none
  | (k, b) :: rest, a => if k = a then some b else Memory.lookup rest a

/-- `Mem[a]`: the last byte written there, or the reset content (R57, R60). -/
def Memory.read (c : Config) (m : Memory) (a : Nat) : Byte := (m.lookup a).getD (unwritten c a)

/-- A cell in front of memory, listed only where it differs from the reset content. -/
def Memory.cons (c : Config) (a : Nat) (b : Byte) (rest : Memory) : Memory :=
  if b = unwritten c a then rest else (a, b) :: rest

/-- `Mem[a] <- b`, keeping the canonical form (R15, R58). -/
def Memory.write (c : Config) : Memory → Nat → Byte → Memory
  | [], a, b => Memory.cons c a b []
  | (k, v) :: rest, a, b =>
    if a < k then Memory.cons c a b ((k, v) :: rest)
    else if a = k then Memory.cons c a b rest
    else (k, v) :: Memory.write c rest a b

/-- Bytes stored one after another from `a` on, in ascending order (R53). -/
def Memory.writeBlock (c : Config) : Memory → Nat → List Byte → Memory
  | m, _, [] => m
  | m, a, b :: bs => Memory.writeBlock c (m.write c a b) (a + 1) bs

/-- `n` bytes read one after another from `a` on, in ascending order (R53). -/
def Memory.readBlock (c : Config) (m : Memory) : Nat → Nat → List Byte
  | _, 0 => []
  | a, n + 1 => m.read c a :: Memory.readBlock c m (a + 1) n

/-- The canonical form from address `lo` on: rising addresses that exist, no cell that holds its reset content. -/
def Memory.wfFrom (c : Config) : Nat → Memory → Bool
  | _, [] => true
  | lo, (k, b) :: rest => decide (lo ≤ k) && hasAddr c k && b != unwritten c k && Memory.wfFrom c (k + 1) rest

/-- The canonical form of memory: strictly rising addresses below `MEM_SIZE`, no cell that holds its reset content. -/
def Memory.wf (c : Config) (m : Memory) : Bool := Memory.wfFrom c 0 m

/-- `MemRead(a, 1)` in a state, for an address that exists (R15). -/
def State.readMem (s : State) (a : Nat) : Byte := s.mem.read s.cfg a

/-- Bytes written into a state's memory from `a` on, for addresses that exist (R15). -/
def State.writeMem (s : State) (a : Nat) (bs : List Byte) : State := { s with mem := s.mem.writeBlock s.cfg a bs }

/-- The instruction word at `pc`, most significant byte first (R52). -/
def State.fetchWord (s : State) : Word := wordOfBytes (s.readMem s.pc.toNat) (s.readMem (s.pc.toNat + 1))

/-! ### General registers -/

/-- The flag register VF (R22). -/
abbrev vf : Reg := 15

/-- A table of sixteen entries, one for each index. -/
def tabulate16 {α : Type} (f : Fin 16 → α) : Vector α 16 :=
  #v[f 0, f 1, f 2, f 3, f 4, f 5, f 6, f 7, f 8, f 9, f 10, f 11, f 12, f 13, f 14, f 15]

/-- `V[x]` (R15, R21). -/
def State.reg (s : State) (x : Reg) : Byte := s.v[x.val]

/-- `V[x] <- b` (R15, R21). -/
def State.setReg (s : State) (x : Reg) (b : Byte) : State := { s with v := s.v.set x.val b }

/-! ### Program counter -/

/-- `pc <- target` (R15). -/
def State.setPc (s : State) (target : Word) : State := { s with pc := target }

/-- `pc <- pc + 2`, modulo 65536 (R25). -/
def State.advance (s : State) : State := s.setPc (s.pc + 2)

/-- `pc <- pc + 4` when the condition holds, else `pc + 2` (R25). -/
def State.skipIf (s : State) (cond : Bool) : State := s.setPc (if cond then s.pc + 4 else s.pc + 2)

/-! ### Call stack -/

/-- Push: `stack[sp] <- a; sp <- sp + 1`, none when `sp = 16` (R26). -/
def State.push (s : State) (a : Word) : Option State :=
  if h : s.sp.val < 16 then
    some { s with stack := s.stack.set s.sp.val a, sp := ⟨s.sp.val + 1, by omega⟩ }
  else none

/-- Pop: `stack[sp - 1]`, `sp <- sp - 1`, none when `sp = 0`; the entry stays in its slot (R26, R102). -/
def State.pop (s : State) : Option (Word × State) :=
  if h : 0 < s.sp.val then
    some (s.stack[s.sp.val - 1]'(by omega), { s with sp := ⟨s.sp.val - 1, by omega⟩ })
  else none

/-! ### Errors -/

/-- Taking a fatal error (R211, R212): nothing of the failing instruction happens, nothing is saved, `pc` still addresses
it; the drain loop ends and `CYCLE` returns the error to the host. -/
def State.takeError (s : State) (e : FatalError) : State :=
  { s with phase := .idle, replies := .cycleFailed e :: s.replies }

/-- `raise E(info)` (R16). -/
def raise (e : FatalError) (s : State) : Host.Outcome State Fault Refusal := .next (s.takeError e)

/-- `raise Unspecified(tag)`: the source gives the behaviour no meaning; it is reported exactly like the source's errors
(R207, R211, R212). -/
def unspecified (tag : UnspecifiedTag) (s : State) : Host.Outcome State Fault Refusal := raise (.unspecified tag) s

/-- The numeric code of an error; 0 is kept for none (R208). -/
def FatalError.code : FatalError → Nat
  | .programCounterOutOfBounds _ => 1
  | .unknownOpcode _ => 2
  | .registerIndexOutOfRange => 3
  | .stackOverflow => 4
  | .stackUnderflow => 5
  | .unspecified _ => 6
  | .programTooLarge => 7

/-- The sub-code of an `Unspecified` error (R208). -/
def UnspecifiedTag.subCode : UnspecifiedTag → Nat
  | .fetchStraddle => 0
  | .dataOob => 1
  | .keyIndex => 2
  | .fontDigit => 3

/-! ### Budget -/

/-- `budget <- budget - COST(v)`, done only while the drain loop still runs: an instruction that raised has ended it and is
not charged (R16, R187). -/
def State.charge (s : State) (v : Variant) : State :=
  match s.phase with
  | .draining => { s with budget := s.budget - s.cfg.cost v }
  | .idle => s

/-! ### The host interface -/

/-- The state with an instruction's bytes placed where the next step fetches, inside a `CYCLE` with budget left. -/
def State.placeWord (s : State) (bytes : List Byte) : State :=
  { s.writeMem s.pc.toNat bytes with
    phase := .draining
    budget := if 0 < s.budget then s.budget else frameUs }

end Sys2Proof.Machine
end

