-- ==== Sys2Proof/Machine/Flags.lean ====
section
/-! DEFINITION. The flag computations: what each of the six flag-writing instructions puts into VF (R22), and the order of
the two register writes (R120). -/

namespace Sys2Proof.Machine

/-- A flag as VF holds it: exactly 0 or 1 (R22). -/
def flagByte (f : Bool) : Byte := if f then 1 else 0

/-- Carry of an 8-bit add: the sum exceeds 255 (R127). -/
def carryOut (a b : Byte) : Bool := decide (255 < a.toNat + b.toNat)

/-- The borrow flag of `a - b`: the minuend is strictly greater (R128, R130). -/
def strictlyGreater (a b : Byte) : Bool := decide (b.toNat < a.toNat)

/-- The register a shift's flag comes from: `V[y]` or `V[x]`, as `SHIFT_FLAG_SRC` says (R11, R129, R131). -/
def State.shiftFlagSource (s : State) (x y : Reg) : Byte :=
  match s.cfg.shiftFlagSrc with
  | .vy => s.reg y
  | .vx => s.reg x

/-- The bit a right shift shifts out: bit 0 (R129). -/
def shiftedOutRight (f : Byte) : Bool := f.getLsbD 0

/-- The bit a left shift shifts out: bit 7 (R131). -/
def shiftedOutLeft (f : Byte) : Bool := f.getLsbD 7

/-- `V[15] <- flag` (R22). -/
def State.setFlag (s : State) (f : Bool) : State := s.setReg vf (flagByte f)

/-- The result to `V[x]`, then the flag to `V[15]`, last (R120). -/
def State.setRegFlag (s : State) (x : Reg) (result : Byte) (f : Bool) : State := (s.setReg x result).setFlag f

end Sys2Proof.Machine
end

