-- ==== Sys2Proof/Machine/Alu.lean ====
section
/-! DEFINITION. The register, arithmetic, logic and random instructions (41_alu.md, R120 to R133). Operands are read before
any register is written; each ends with `pc <- pc + 2`. -/

namespace Sys2Proof.Machine

/-- `LD Vx, kk` (R121). -/
def execLdImm (x : Reg) (kk : Byte) (s : State) : Host.Outcome State Fault Refusal := .next (s.setReg x kk).advance

/-- `ADD Vx, kk` (R122): VF is not written. -/
def execAddImm (x : Reg) (kk : Byte) (s : State) : Host.Outcome State Fault Refusal :=
  .next (s.setReg x (s.reg x + kk)).advance

/-- `LD Vx, Vy` (R123). -/
def execLdReg (x y : Reg) (s : State) : Host.Outcome State Fault Refusal := .next (s.setReg x (s.reg y)).advance

/-- `OR Vx, Vy` (R124): VF is left unchanged. -/
def execOr (x y : Reg) (s : State) : Host.Outcome State Fault Refusal := .next (s.setReg x (s.reg x ||| s.reg y)).advance

/-- `AND Vx, Vy` (R125): VF is left unchanged. -/
def execAnd (x y : Reg) (s : State) : Host.Outcome State Fault Refusal := .next (s.setReg x (s.reg x &&& s.reg y)).advance

/-- `XOR Vx, Vy` (R126): VF is left unchanged. -/
def execXor (x y : Reg) (s : State) : Host.Outcome State Fault Refusal := .next (s.setReg x (s.reg x ^^^ s.reg y)).advance

/-- `ADD Vx, Vy` (R127). -/
def execAddReg (x y : Reg) (s : State) : Host.Outcome State Fault Refusal :=
  .next (s.setRegFlag x (s.reg x + s.reg y) (carryOut (s.reg x) (s.reg y))).advance

/-- `SUB Vx, Vy` (R128): minuend `V[x]`. -/
def execSub (x y : Reg) (s : State) : Host.Outcome State Fault Refusal :=
  .next (s.setRegFlag x (s.reg x - s.reg y) (strictlyGreater (s.reg x) (s.reg y))).advance

/-- `SHR Vx, Vy` (R129): the value shifted is `V[y]`. -/
def execShr (x y : Reg) (s : State) : Host.Outcome State Fault Refusal :=
  .next (s.setRegFlag x (s.reg y >>> 1) (shiftedOutRight (s.shiftFlagSource x y))).advance

/-- `SUBN Vx, Vy` (R130): minuend `V[y]`. -/
def execSubn (x y : Reg) (s : State) : Host.Outcome State Fault Refusal :=
  .next (s.setRegFlag x (s.reg y - s.reg x) (strictlyGreater (s.reg y) (s.reg x))).advance

/-- `SHL Vx, Vy` (R131): the value shifted is `V[y]`. -/
def execShl (x y : Reg) (s : State) : Host.Outcome State Fault Refusal :=
  .next (s.setRegFlag x (s.reg y <<< 1) (shiftedOutLeft (s.shiftFlagSource x y))).advance

/-- One `Draw8()`: the free byte of this draw, and the state with the draw counted (R17). -/
def State.draw (s : State) : Byte × State := (Config.draw8 s.draws, { s with draws := s.draws + 1 })

/-- `RND Vx, kk` with a given draw (R132). -/
def State.random (s : State) (x : Reg) (kk r : Byte) : State := (s.setReg x (r &&& kk)).advance

/-- `RND Vx, kk` (R132). -/
def execRnd (x : Reg) (kk : Byte) (s : State) : Host.Outcome State Fault Refusal :=
  .next (s.draw.2.random x kk s.draw.1)

end Sys2Proof.Machine
end

