-- ==== Sys2Proof/Machine/Operands.lean ====
section
/-! DEFINITION. The operand forms: zero-extended fields, addresses through `I`, register blocks, key codes, hexadecimal
digits, decimal digits (R73, R150, R165, R166, R169). -/

namespace Sys2Proof.Machine

/-- An address field as a 16-bit value, zero-extended (R73). -/
def addrWord (nnn : Addr12) : Word := nnn.setWidth 16

/-- A byte as a 16-bit value, zero-extended (R73). -/
def byteWord (b : Byte) : Word := b.setWidth 16

/-- The word of `SYS nnn` (R101). -/
def sysWord (nnn : Addr12) : Word := encode (.sys nnn)

/-- The effective address of element `k`: the integer `I + k`, never wrapped (R169). -/
def State.effAddr (s : State) (k : Nat) : Nat := s.i.toNat + k

/-- `n` elements through `I` all lie in memory (R55, R169). -/
def State.blockInMem (s : State) (n : Nat) : Bool := blockFits s.cfg (s.effAddr 0) n

/-- The `n` bytes at `I` (R53, R169). -/
def State.readAtI (s : State) (n : Nat) : List Byte := s.mem.readBlock s.cfg (s.effAddr 0) n

/-- Bytes stored from `I` on (R53, R169). -/
def State.writeAtI (s : State) (bs : List Byte) : State := s.writeMem (s.effAddr 0) bs

/-- `V[0..x]`, the values of the register block (R167). -/
def State.regBlock (s : State) (x : Reg) : List Byte := s.v.toList.take (x.val + 1)

/-- `V[0..x]` taken from memory at `I`, the registers above `x` kept (R168). -/
def State.loadBlock (s : State) (x : Reg) : State :=
  { s with v := tabulate16 fun k => if k ≤ x then s.readMem (s.effAddr k.val) else s.reg k }

/-- A byte as an index 0..15, none when it is 0x10 or more: a key code, a hexadecimal digit (R150, R165). -/
def hexDigit (b : Byte) : Option (Fin 16) := if h : b.toNat < 16 then some ⟨b.toNat, h⟩ else none

/-- The key is down (R27). -/
def State.keyDown (s : State) (k : Fin 16) : Bool := s.keys[k.val]

/-- The lowest key that is down, if any is (R153). -/
def State.lowestKey (s : State) : Option (Fin 16) := (List.finRange 16).find? fun k => s.keyDown k

/-- The address of a digit's glyph, `FONT_BASE + 5 * d` (R165). -/
def glyphAddr (c : Config) (d : Fin 16) : Word := BitVec.ofNat 16 (c.fontBase.val + 5 * d.val)

/-- Hundreds, tens and ones of a byte, one digit a byte (R166). -/
def bcdDigits (b : Byte) : List Byte :=
  [BitVec.ofNat 8 (b.toNat / 100), BitVec.ofNat 8 (b.toNat / 10 % 10), BitVec.ofNat 8 (b.toNat % 10)]

end Sys2Proof.Machine
end

