-- ==== Sys2Proof/Machine/ControlFlow.lean ====
section
/-! DEFINITION. The control-transfer instructions (40_control_flow.md, R100 to R110). None writes a register, `I`, a timer,
the framebuffer or memory. -/

namespace Sys2Proof.Machine

/-- `RET` (R102). -/
def execRet (s : State) : Host.Outcome State Fault Refusal :=
  match s.pop with
  | some (a, t) => .next (t.setPc a)
  | none => raise .stackUnderflow s

/-- `SYS nnn`: always raises (R101). -/
def execSys (nnn : Addr12) (s : State) : Host.Outcome State Fault Refusal := raise (.unknownOpcode (sysWord nnn)) s

/-- `JP nnn` (R103). -/
def execJp (nnn : Addr12) (s : State) : Host.Outcome State Fault Refusal := .next (s.setPc (addrWord nnn))

/-- `CALL nnn` (R104): the pushed address is that of the next instruction. -/
def execCall (nnn : Addr12) (s : State) : Host.Outcome State Fault Refusal :=
  match s.push (s.pc + 2) with
  | some t => .next (t.setPc (addrWord nnn))
  | none => raise .stackOverflow s

/-- `SE Vx, kk` (R105). -/
def execSeImm (x : Reg) (kk : Byte) (s : State) : Host.Outcome State Fault Refusal := .next (s.skipIf (s.reg x == kk))

/-- `SNE Vx, kk` (R106). -/
def execSneImm (x : Reg) (kk : Byte) (s : State) : Host.Outcome State Fault Refusal := .next (s.skipIf (s.reg x != kk))

/-- `SE Vx, Vy` (R107). -/
def execSeReg (x y : Reg) (s : State) : Host.Outcome State Fault Refusal := .next (s.skipIf (s.reg x == s.reg y))

/-- `SNE Vx, Vy` (R108). -/
def execSneReg (x y : Reg) (s : State) : Host.Outcome State Fault Refusal := .next (s.skipIf (s.reg x != s.reg y))

/-- `JP V0, nnn` (R109): the sum is not masked to 12 bits. -/
def execJpV0 (nnn : Addr12) (s : State) : Host.Outcome State Fault Refusal :=
  .next (s.setPc (addrWord nnn + byteWord (s.reg 0)))

end Sys2Proof.Machine
end

