-- ==== Sys2Proof/Machine/Display.lean ====
section
/-! DEFINITION. The display instructions (42_display.md, R140 to R144), pixel by pixel as R141 gives them; R142's byte form
stands at the end, for the claim that the two agree. -/

namespace Sys2Proof.Machine

/-! ### Pixels -/

/-- A column, wrapped: `n mod 64` (R31). -/
def column (n : Nat) : Fin 64 := ⟨n % 64, Nat.mod_lt _ (by decide)⟩

/-- A row, wrapped: `n mod 32` (R31). -/
def row (n : Nat) : Fin 32 := ⟨n % 32, Nat.mod_lt _ (by decide)⟩

/-- The framebuffer byte a pixel lies in: `py*8 + (px div 8)` (R31). -/
def pixelByte (px : Fin 64) (py : Fin 32) : Fin 256 := ⟨py.val * 8 + px.val / 8, by omega⟩

/-- The bit of that byte: `7 - (px mod 8)` (R31). -/
def pixelBit (px : Fin 64) : Nat := 7 - px.val % 8

/-- `Pix(px, py)` (R31). -/
def pix (fb : Framebuffer) (px : Fin 64) (py : Fin 32) : Bool := fb[(pixelByte px py).val].getLsbD (pixelBit px)

/-- `Pix(px, py) <- Pix(px, py) ^ 1` (R141). -/
def togglePix (fb : Framebuffer) (px : Fin 64) (py : Fin 32) : Framebuffer :=
  fb.set (pixelByte px py).val (fb[(pixelByte px py).val] ^^^ (1#8 <<< pixelBit px))

/-! ### Drawing -/

/-- What a draw is building: the framebuffer and whether a lit pixel was toggled (`coll` of R141). -/
structure Canvas where
  fb : Framebuffer
  coll : Bool
deriving DecidableEq, Repr

/-- One pixel of a sprite row: a 1 bit toggles its pixel and collides with a lit one, a 0 bit does nothing (R141, R143). -/
def drawBit (b : Byte) (x0 : Nat) (py : Fin 32) (cv : Canvas) (c : Nat) : Canvas :=
  if b.getLsbD (7 - c) then
    { fb := togglePix cv.fb (column (x0 + c)) py, coll := cv.coll || pix cv.fb (column (x0 + c)) py }
  else cv

/-- One sprite row: its eight pixels, from the left (R141). -/
def drawRow (b : Byte) (x0 : Nat) (py : Fin 32) (cv : Canvas) : Canvas :=
  [0, 1, 2, 3, 4, 5, 6, 7].foldl (drawBit b x0 py) cv

/-- The sprite rows from row `r` on (R141). -/
def drawRows (x0 y0 : Nat) : Nat → List Byte → Canvas → Canvas
  | _, [], cv => cv
  | r, b :: bs, cv => drawRows x0 y0 (r + 1) bs (drawRow b x0 (row (y0 + r)) cv)

/-- A whole sprite on a framebuffer, no collision yet (R141). -/
def drawSprite (fb : Framebuffer) (x0 y0 : Nat) (sprite : List Byte) : Canvas := drawRows x0 y0 0 sprite ⟨fb, false⟩

/-! ### The instructions -/

/-- `CLS` (R140). -/
def execCls (s : State) : Host.Outcome State Fault Refusal :=
  .next { s with fb := Vector.replicate 256 0 }.advance

/-- A drawn canvas put into the state, VF last (R141). -/
def State.setCanvas (s : State) (cv : Canvas) : State := { s with fb := cv.fb }.setFlag cv.coll

/-- `DRW Vx, Vy, n` (R141): the coordinates are read before VF is written, the addresses checked before anything changes. -/
def execDrw (x y : Reg) (n : Height) (s : State) : Host.Outcome State Fault Refusal :=
  if s.blockInMem n.val then
    .next (s.setCanvas (drawSprite s.fb (s.reg x).toNat (s.reg y).toNat (s.readAtI n.val))).advance
  else unspecified .dataOob s

/-! ### The byte form of R142 -/

/-- One sprite row by framebuffer bytes: the byte split at `s = x0 mod 8` over two byte columns (R142). -/
def drawRowBytes (b : Byte) (x0 : Nat) (py : Fin 32) (cv : Canvas) : Canvas :=
  let s := x0 % 8
  let i0 := pixelByte (column x0) py
  let i1 := pixelByte (column (x0 + 8)) py
  let left : Byte := b >>> s
  let right : Byte := b <<< (8 - s)
  let hit := cv.fb[i0.val] &&& left != 0 || cv.fb[i1.val] &&& right != 0
  let fb0 := cv.fb.set i0.val (cv.fb[i0.val] ^^^ left)
  { fb := if s = 0 then fb0 else fb0.set i1.val (fb0[i1.val] ^^^ right), coll := cv.coll || hit }

/-- The sprite rows from row `r` on, by bytes (R142). -/
def drawRowsBytes (x0 y0 : Nat) : Nat → List Byte → Canvas → Canvas
  | _, [], cv => cv
  | r, b :: bs, cv => drawRowsBytes x0 y0 (r + 1) bs (drawRowBytes b x0 (row (y0 + r)) cv)

end Sys2Proof.Machine
end

