-- ==== Sys2Proof/Machine/IndexMemory.lean ====
section
/-! DEFINITION. The address-register, timer and memory instructions (44_timer_index_memory.md, R160 to R169). `I` is never
changed by an access; addresses are checked before anything is written. -/

namespace Sys2Proof.Machine

/-- `LD I, nnn` (R160). -/
def execLdI (nnn : Addr12) (s : State) : Host.Outcome State Fault Refusal := .next { s with i := addrWord nnn }.advance

/-- `LD Vx, DT` (R161). -/
def execLdVxDT (x : Reg) (s : State) : Host.Outcome State Fault Refusal := .next (s.setReg x s.dt).advance

/-- `LD DT, Vx` (R162). -/
def execLdDTVx (x : Reg) (s : State) : Host.Outcome State Fault Refusal := .next { s with dt := s.reg x }.advance

/-- `LD ST, Vx` (R163). -/
def execLdSTVx (x : Reg) (s : State) : Host.Outcome State Fault Refusal := .next { s with st := s.reg x }.advance

/-- `ADD I, Vx` (R164): modulo 65536, VF not written. -/
def execAddI (x : Reg) (s : State) : Host.Outcome State Fault Refusal :=
  .next { s with i := s.i + byteWord (s.reg x) }.advance

/-- `LD F, Vx` (R165). -/
def execLdF (x : Reg) (s : State) : Host.Outcome State Fault Refusal :=
  match hexDigit (s.reg x) with
  | some d => .next { s with i := glyphAddr s.cfg d }.advance
  | none => unspecified .fontDigit s

/-- `LD B, Vx` (R166). -/
def execLdB (x : Reg) (s : State) : Host.Outcome State Fault Refusal :=
  if s.blockInMem 3 then .next (s.writeAtI (bcdDigits (s.reg x))).advance else unspecified .dataOob s

/-- `LD [I], Vx` (R167). -/
def execDumpRegs (x : Reg) (s : State) : Host.Outcome State Fault Refusal :=
  if s.blockInMem (x.val + 1) then .next (s.writeAtI (s.regBlock x)).advance else unspecified .dataOob s

/-- `LD Vx, [I]` (R168). -/
def execLoadRegs (x : Reg) (s : State) : Host.Outcome State Fault Refusal :=
  if s.blockInMem (x.val + 1) then .next (s.loadBlock x).advance else unspecified .dataOob s

end Sys2Proof.Machine
end

