-- ==== Sys2Proof/Machine/Keypad.lean ====
section
/-! DEFINITION. The keypad instructions (43_keypad.md, R150 to R153). -/

namespace Sys2Proof.Machine

/-- `SKP Vx` (R151): the whole byte is the key code, not its low nibble (R150). -/
def execSkp (x : Reg) (s : State) : Host.Outcome State Fault Refusal :=
  match hexDigit (s.reg x) with
  | some k => .next (s.skipIf (s.keyDown k))
  | none => unspecified .keyIndex s

/-- `SKNP Vx` (R152). -/
def execSknp (x : Reg) (s : State) : Host.Outcome State Fault Refusal :=
  match hexDigit (s.reg x) with
  | some k => .next (s.skipIf (!s.keyDown k))
  | none => unspecified .keyIndex s

/-- `LD Vx, K` (R153): the lowest key that is down; with none down nothing changes and the instruction runs again. -/
def execLdVxK (x : Reg) (s : State) : Host.Outcome State Fault Refusal :=
  match s.lowestKey with
  | some k => .next (s.setReg x (BitVec.ofNat 8 k.val)).advance
  | none => .next s

end Sys2Proof.Machine
end

