-- ==== Sys2Proof/Machine/HostOps.lean ====
section
/-! DEFINITION. The host's four operations (R180): `RESET`, the frame-start half of `CYCLE`, `FB_READ` and `TONE_READ`; the end
of a `CYCLE`'s drain loop. -/

namespace Sys2Proof.Machine

/-- An answer given to the host. -/
def State.reply (s : State) (r : Reply) : State := { s with replies := r :: s.replies }

/-- The keypad a snapshot stands for: bit `k` is key `k` (R182). -/
def keysOf (snapshot : BitVec 16) : Vector Bool 16 := tabulate16 fun k => snapshot.getLsbD k.val

/-- Step 1 of `CYCLE`: the snapshot replaces all sixteen keys (R182). -/
def State.applyKeys (s : State) (snapshot : BitVec 16) : State := { s with keys := keysOf snapshot }

/-- One timer tick: down by 1, floor 0 (R28). -/
def tick (t : Byte) : Byte := if t = 0 then 0 else t - 1

/-- Step 2: the delay timer (R183). -/
def State.tickDelay (s : State) : State := { s with dt := tick s.dt }

/-- Step 3: the sound timer, and the tone pulse when it was exactly 1 before (R184). -/
def State.tickSound (s : State) : State := { s with tone := s.tone || s.st == 1, st := tick s.st }

/-- Step 4: the frame's microseconds (R185). -/
def State.addFrame (s : State) : State := { s with budget := s.budget + frameUs }

/-- Steps 1 to 4 of `CYCLE`, then the drain loop is entered (R181, R196). -/
def State.startFrame (s : State) (snapshot : BitVec 16) : State :=
  { (s.applyKeys snapshot).tickDelay.tickSound.addFrame with phase := .draining }

/-- The drain loop has found `budget ≤ 0`: `CYCLE` returns nothing (R181, R186). -/
def State.endFrame (s : State) : State := { s with phase := .idle }.reply .cycleDone

/-- A fresh machine with a program in it (R36, R230, R232); the draws and the host's own fields go on. -/
def State.fresh (s : State) (program : List Byte) : State :=
  { State.blank s.cfg with
    mem := Memory.writeBlock s.cfg [] loadAddr program
    draws := s.draws
    calls := s.calls
    replies := s.replies }

/-- `RESET(program)`: refused as too large when `len > MEM_SIZE - 0x200`, and then no machine is touched (R230, R231). -/
def State.resetOp (s : State) (program : List Byte) : State :=
  if blockFits s.cfg loadAddr program.length then (s.fresh program).reply .machineReady
  else s.reply (.loadFailed .programTooLarge)

/-- `FB_READ()` (R190): changes nothing of the machine. -/
def State.fbRead (s : State) : State := s.reply (.bitmap s.fb)

/-- `TONE_READ()` (R191): returns the flag and clears it. -/
def State.toneRead (s : State) : State := { s with tone := false }.reply (.tone s.tone)

/-- One host operation on an idle machine (R180). -/
def State.hostCall (s : State) : HostOp → State
  | .reset program => s.resetOp program
  | .cycle snapshot => s.startFrame snapshot
  | .fbRead => s.fbRead
  | .toneRead => s.toneRead

/-- The host's turn: its next operation, if it makes one; otherwise nothing happens (R192). -/
def State.hostTurn (s : State) : State :=
  match s.calls with
  | [] => s
  | op :: rest => { s with calls := rest }.hostCall op

end Sys2Proof.Machine
end

