-- ==== Sys2Proof/Machine/Drain.lean ====
section
/-! DEFINITION. The drain loop (R186, R187): fetch with its two bounds checks, decode, execute, charge. -/

namespace Sys2Proof.Machine

/-- The charge added to what the executor answered (R187). -/
def chargeOutcome (v : Variant) : Host.Outcome State Fault Refusal → Host.Outcome State Fault Refusal
  | .next t => .next (t.charge v)
  | .fault r => .fault r
  | .refused r => .refused r

/-- Execute the fetched word: raise when no row matches it (R187, R202). -/
def State.runWord (s : State) (w : Word) : Host.Outcome State Fault Refusal :=
  match decodeWord w with
  | .ok i => chargeOutcome i.variant (exec i s)
  | .error _ => raise (.unknownOpcode w) s

/-- One drain iteration, its errors in the order of R210 (R187). -/
def State.drainIteration (s : State) : Host.Outcome State Fault Refusal :=
  if hasAddr s.cfg s.pc.toNat then
    if hasAddr s.cfg (s.pc.toNat + 1) then s.runWord s.fetchWord
    else unspecified .fetchStraddle s
  else raise (.programCounterOutOfBounds s.pc) s

/-- The loop's test, made before every iteration (R186). -/
def State.drainStep (s : State) : Host.Outcome State Fault Refusal :=
  if 0 < s.budget then s.drainIteration else .next s.endFrame

end Sys2Proof.Machine
end

