-- ==== Sys2Proof/Machine/Step.lean ====
section
/-! DEFINITION. One step of the machine, at the grain R196 allows: a host operation (the start of a frame, for `CYCLE`), or
one test of the drain loop with the iteration or the return that follows it. -/

namespace Sys2Proof.Machine

/-- One step (R34, R196). -/
def step (s : State) : Host.Outcome State Fault Refusal :=
  match s.phase with
  | .idle => .next s.hostTurn
  | .draining => s.drainStep

/-- The state with one instruction placed where the next step fetches (host interface, log entry 3). -/
def State.withFetchWord (s : State) (nbits w : Nat) : State := s.placeWord (tableBytes nbits w)

end Sys2Proof.Machine
end

