-- ==== Sys2Proof/Safety.lean ====
section
/-! DEFINITION. The vocabulary of the claims: what counts as a safe run, the invariants, what it means that an instruction
leaves the rest of the machine alone, a fresh machine, the words the decoder must refuse. -/

namespace Sys2Proof.Machine

/-! ### Runs -/

/-- `t` is where `n` steps from `s` arrive. -/
def RunsTo (n : Nat) (s t : State) : Prop := Host.Core.run core n s = .next t

/-- No number of steps from `s` ends in a fault or a refusal. -/
def SafeFrom (s : State) : Prop := ∀ n, ∃ t, RunsTo n s t

/-! ### Invariants -/

/-- Memory is in its canonical form. -/
def MemOk (s : State) : Prop := s.mem.wf s.cfg = true

/-- The largest cost of a machine's table (R194). -/
def maxCost (c : Config) : Nat := c.costLess1.toList.foldr max 0 + 1

/-- No `CYCLE` has returned an error to the host yet (the premise R213 advises). -/
def NoErrorYet (s : State) : Prop := ∀ e, Reply.cycleFailed e ∉ s.replies

/-- The budget bounds of R194, in the form every step keeps. -/
def BudgetInv (s : State) : Prop :=
  NoErrorYet s → -(maxCost s.cfg : Int) < s.budget ∧ s.budget ≤ frameUs ∧ (s.phase = .idle → s.budget ≤ 0)

/-! ### Frames -/

/-- Every byte of memory reads as before. -/
def MemSame (s t : State) : Prop := ∀ a, t.readMem a = s.readMem a

/-- Every byte of memory outside the `len` bytes at `base` reads as before. -/
def MemSameOutside (s t : State) (base len : Nat) : Prop := ∀ a, a < base ∨ base + len ≤ a → t.readMem a = s.readMem a

/-- Every general register not listed is as before. -/
def RegsSameExcept (s t : State) (xs : List Reg) : Prop := ∀ z, z ∉ xs → t.reg z = s.reg z

/-- The instruction completes with `pc` at `target` and changes nothing else. -/
def OnlyGoesTo (i : Instr) (s : State) (target : Word) : Prop :=
  ∃ t, exec i s = .next t ∧ t.pc = target ∧ t = { s with pc := t.pc } ∧ RegsSameExcept s t [] ∧ MemSame s t

/-- The instruction completes, writes one general register, goes to the next word, and changes nothing else. -/
def WritesReg (i : Instr) (s : State) (x : Reg) (value : Byte) : Prop :=
  ∃ t, exec i s = .next t ∧ t.reg x = value ∧ t.pc = s.pc + 2 ∧
    t = { s with v := t.v, pc := t.pc } ∧ RegsSameExcept s t [x] ∧ MemSame s t

/-- The instruction completes, writes a register and then VF, goes to the next word, and changes nothing else. Where the
register is VF itself, VF ends as the flag (R120). -/
def WritesRegThenFlag (i : Instr) (s : State) (x : Reg) (value flag : Nat) : Prop :=
  ∃ t, exec i s = .next t ∧ (x ≠ 15 → (t.reg x).toNat = value) ∧ (t.reg 15).toNat = flag ∧ t.pc = s.pc + 2 ∧
    t = { s with v := t.v, pc := t.pc } ∧ RegsSameExcept s t [x, 15] ∧ MemSame s t

/-- The instruction completes, writes `I`, goes to the next word, and changes nothing else. -/
def WritesIndex (i : Instr) (s : State) (value : Nat) : Prop :=
  ∃ t, exec i s = .next t ∧ t.i.toNat = value ∧ t.pc = s.pc + 2 ∧
    t = { s with i := t.i, pc := t.pc } ∧ RegsSameExcept s t [] ∧ MemSame s t

/-- What taking a fatal error is: the host is told, the drain loop is left, all else is as it was (R189, R211, R212). -/
def Raised (s t : State) (e : FatalError) : Prop :=
  t = { s with phase := .idle, replies := .cycleFailed e :: s.replies } ∧ RegsSameExcept s t [] ∧ MemSame s t

/-- The instruction raises: nothing changes but that the drain loop is left and the host is told. -/
def Raises (i : Instr) (s : State) (e : FatalError) : Prop := ∃ t, exec i s = .next t ∧ Raised s t e

/-- The errors an instruction's own execution can raise (class 4 of R210, and SYS by R101). -/
def CanRaise (i : Instr) : FatalError → Prop
  | .unknownOpcode w => i.variant = .SYS ∧ w = encode i
  | .stackOverflow => i.variant = .CALL
  | .stackUnderflow => i.variant = .RET
  | .unspecified .dataOob => i.variant ∈ [.DRW_VX_VY_N, .LD_B_VX, .LD_I_VX, .LD_VX_I]
  | .unspecified .keyIndex => i.variant ∈ [.SKP_VX, .SKNP_VX]
  | .unspecified .fontDigit => i.variant = .LD_F_VX
  | .unspecified .fetchStraddle => False
  | .programCounterOutOfBounds _ => False
  | .registerIndexOutOfRange => False
  | .programTooLarge => False

/-! ### The drain loop -/

/-- The next step is a drain iteration that fetches `w`: both bytes of the word at `pc` exist and budget is left (R187). -/
def AboutToRun (s : State) (w : Word) : Prop :=
  s.phase = .draining ∧ 0 < s.budget ∧ s.pc.toNat + 1 < s.cfg.memSize ∧ s.fetchWord = w

/-- One drain iteration on the word runs the instruction and charges its cost (R187). -/
def StepRuns (w : Word) (i : Instr) : Prop :=
  ∀ s t, AboutToRun s w → exec i s = .next t → t.phase = .draining →
    step s = .next { t with budget := t.budget - s.cfg.cost i.variant }

/-! ### Sprites -/

/-- The sprite of `n` rows at `I`, drawn at `(x0, y0)`, has a 1 bit on the pixel `(px, py)` (R141). -/
def SpriteCovers (s : State) (x0 y0 n : Nat) (px : Fin 64) (py : Fin 32) : Prop :=
  ∃ r c, r < n ∧ c < 8 ∧ px.val = (x0 + c) % 64 ∧ py.val = (y0 + r) % 32 ∧
    (s.readMem (s.effAddr r)).getLsbD (7 - c) = true

/-! ### Reset -/

/-- The reset table of R36 for a program. -/
def IsFresh (t : State) (program : List Byte) : Prop :=
  (∀ x, t.reg x = 0) ∧ t.i = 0 ∧ t.pc = 0x200 ∧ (∀ k (h : k < 16), t.stack[k] = 0) ∧ t.sp.val = 0 ∧
    (∀ k, t.keyDown k = false) ∧ t.dt = 0 ∧ t.st = 0 ∧ t.tone = false ∧ (∀ k (h : k < 256), t.fb[k] = 0) ∧
    t.budget = 0 ∧ t.phase = .idle ∧
    (∀ j (h : j < 80), t.readMem (t.cfg.fontBase.val + j) = t.cfg.font[j]) ∧
    (∀ j (h : j < program.length), t.readMem (0x200 + j) = program[j]) ∧
    (∀ a, (a < t.cfg.fontBase.val ∨ t.cfg.fontBase.val + 80 ≤ a) → (a < 0x200 ∨ 0x200 + program.length ≤ a) → t.readMem a = 0)

/-! ### Illegal words -/

/-- The words that match no row, as R81 lists them by family. -/
def IllegalWord (w : Word) : Prop :=
  (w.toNat / 4096 = 5 ∧ w.toNat % 16 ≠ 0) ∨ (w.toNat / 4096 = 9 ∧ w.toNat % 16 ≠ 0) ∨
    (w.toNat / 4096 = 8 ∧ w.toNat % 16 ∈ [0x8, 0x9, 0xA, 0xB, 0xC, 0xD, 0xF]) ∨
    (w.toNat / 4096 = 0xE ∧ w.toNat % 256 ∉ [0x9E, 0xA1]) ∨
    (w.toNat / 4096 = 0xF ∧ w.toNat % 256 ∉ [0x07, 0x0A, 0x15, 0x18, 0x1E, 0x29, 0x33, 0x55, 0x65])

end Sys2Proof.Machine
end

