-- ==== Sys2Proof/Certificates/Slice0/Obligations.lean ====
section
/-! DEFINITION. The statements for the provers. Each says which rule of spec/ it formalises in its docstring. -/

open Sys2Proof Sys2Proof.Machine

/-- O1. SYS always raises UnknownOpcode with its word, changing and charging nothing (R101). -/
def Obligations.SysRaisesUnknownOpcode : Prop :=
  ∀ nnn : Addr12,
    (nnn ≠ 0x0E0 → nnn ≠ 0x0EE → decodeWord (hexWordNnn 0x0 nnn) = .ok (.sys nnn) ∧
      ∀ s, AboutToRun s (hexWordNnn 0x0 nnn) →
        ∃ t, step s = .next t ∧ Raised s t (.unknownOpcode (hexWordNnn 0x0 nnn))) ∧
    ∀ s, Raises (.sys nnn) s (.unknownOpcode (hexWordNnn 0x0 nnn))

/-- O2. RET pops the call stack into pc, or raises StackUnderflow when it is empty (R102). -/
def Obligations.RetPopsOrUnderflows : Prop :=
  decodeWord 0x00EE = .ok .ret ∧ ∀ s : State,
    (s.sp.val = 0 → Raises .ret s .stackUnderflow) ∧
    ∀ h : 0 < s.sp.val, ∃ t, exec .ret s = .next t ∧ t.pc = s.stack[s.sp.val - 1]'(by omega) ∧
      t.sp.val = s.sp.val - 1 ∧ t = { s with pc := t.pc, sp := t.sp } ∧ RegsSameExcept s t [] ∧ MemSame s t

/-- O3. JP nnn sets pc to nnn and nothing else, and each execution is charged (R103). -/
def Obligations.JpSetsThePc : Prop :=
  ∀ nnn : Addr12, decodeWord (hexWordNnn 0x1 nnn) = .ok (.jp nnn) ∧ StepRuns (hexWordNnn 0x1 nnn) (.jp nnn) ∧
    ∀ s, OnlyGoesTo (.jp nnn) s (BitVec.ofNat 16 nnn.toNat)

/-- O4. CALL pushes the address of the next instruction and jumps, or raises StackOverflow at 16 entries (R104). -/
def Obligations.CallPushesOrOverflows : Prop :=
  ∀ nnn : Addr12, decodeWord (hexWordNnn 0x2 nnn) = .ok (.call nnn) ∧ ∀ s : State,
    (s.sp.val = 16 → Raises (.call nnn) s .stackOverflow) ∧
    ∀ h : s.sp.val < 16, ∃ t, exec (.call nnn) s = .next t ∧ t.pc = BitVec.ofNat 16 nnn.toNat ∧
      t.sp.val = s.sp.val + 1 ∧ (t.stack[s.sp.val]'h).toNat = (s.pc.toNat + 2) % 65536 ∧
      (∀ k (hk : k < 16), k ≠ s.sp.val → t.stack[k] = s.stack[k]) ∧
      t = { s with pc := t.pc, sp := t.sp, stack := t.stack } ∧ RegsSameExcept s t [] ∧ MemSame s t

/-- O5. SE Vx,kk and SNE Vx,kk go on by 4 when their condition holds, else by 2, at one cost (R105, R106). -/
def Obligations.ImmediateSkipsCompareWithTheByte : Prop :=
  ∀ (x : Reg) (kk : Byte),
    decodeWord (hexWordKk 0x3 x.val kk) = .ok (.seImm x kk) ∧ decodeWord (hexWordKk 0x4 x.val kk) = .ok (.sneImm x kk) ∧
    StepRuns (hexWordKk 0x3 x.val kk) (.seImm x kk) ∧ StepRuns (hexWordKk 0x4 x.val kk) (.sneImm x kk) ∧
    ∀ s : State,
      (s.reg x = kk → OnlyGoesTo (.seImm x kk) s (s.pc + 4) ∧ OnlyGoesTo (.sneImm x kk) s (s.pc + 2)) ∧
      (s.reg x ≠ kk → OnlyGoesTo (.seImm x kk) s (s.pc + 2) ∧ OnlyGoesTo (.sneImm x kk) s (s.pc + 4))

/-- O6. SE Vx,Vy and SNE Vx,Vy go on by 4 when their condition holds, else by 2 (R107, R108). -/
def Obligations.RegisterSkipsCompareTwoRegisters : Prop :=
  ∀ x y : Reg,
    decodeWord (hexWord 0x5 x.val y.val 0) = .ok (.seReg x y) ∧ decodeWord (hexWord 0x9 x.val y.val 0) = .ok (.sneReg x y) ∧
    ∀ s : State,
      (s.reg x = s.reg y → OnlyGoesTo (.seReg x y) s (s.pc + 4) ∧ OnlyGoesTo (.sneReg x y) s (s.pc + 2)) ∧
      (s.reg x ≠ s.reg y → OnlyGoesTo (.seReg x y) s (s.pc + 2) ∧ OnlyGoesTo (.sneReg x y) s (s.pc + 4))

/-- O7. JP V0,nnn goes to nnn + V0, never masked to 12 bits (R109). -/
def Obligations.JpV0AddsV0WithoutMask : Prop :=
  ∀ nnn : Addr12, decodeWord (hexWordNnn 0xB nnn) = .ok (.jpV0 nnn) ∧ ∀ s : State,
    nnn.toNat + (s.reg 0).toNat ≤ 0x10FE ∧
    OnlyGoesTo (.jpV0 nnn) s (BitVec.ofNat 16 (nnn.toNat + (s.reg 0).toNat))

/-- O8. RET after CALL resumes at the instruction after the CALL with the stack depth restored (R110). -/
def Obligations.CallThenReturnComesBack : Prop :=
  ∀ (nnn : Addr12) (s : State), s.sp.val < 16 → ∃ t, exec (.call nnn) s = .next t ∧
    ∀ u : State, u.stack = t.stack → u.sp = t.sp → ∃ r, exec .ret u = .next r ∧ r.pc = s.pc + 2 ∧ r.sp = s.sp

/-- O9. LD Vx,kk, ADD Vx,kk and LD Vx,Vy write Vx alone; the immediate add wraps and leaves VF (R121, R122, R123). -/
def Obligations.LoadsAndImmediateAddWriteOneRegister : Prop :=
  ∀ (x y : Reg) (kk : Byte),
    decodeWord (hexWordKk 0x6 x.val kk) = .ok (.ldImm x kk) ∧ decodeWord (hexWordKk 0x7 x.val kk) = .ok (.addImm x kk) ∧
    decodeWord (hexWord 0x8 x.val y.val 0x0) = .ok (.ldReg x y) ∧
    ∀ s : State, WritesReg (.ldImm x kk) s x kk ∧
      WritesReg (.addImm x kk) s x (BitVec.ofNat 8 (((s.reg x).toNat + kk.toNat) % 256)) ∧
      WritesReg (.ldReg x y) s x (s.reg y)

/-- O10. OR, AND and XOR combine Vx and Vy bit by bit into Vx and leave VF unchanged (R124, R125, R126). -/
def Obligations.LogicWritesOneRegisterAndLeavesVF : Prop :=
  ∀ x y : Reg,
    decodeWord (hexWord 0x8 x.val y.val 0x1) = .ok (.orReg x y) ∧ decodeWord (hexWord 0x8 x.val y.val 0x2) = .ok (.andReg x y) ∧
    decodeWord (hexWord 0x8 x.val y.val 0x3) = .ok (.xorReg x y) ∧
    ∀ s : State, ∃ o a e : Byte,
      WritesReg (.orReg x y) s x o ∧ WritesReg (.andReg x y) s x a ∧ WritesReg (.xorReg x y) s x e ∧
      ∀ k, k < 8 → o.getLsbD k = ((s.reg x).getLsbD k || (s.reg y).getLsbD k) ∧
        a.getLsbD k = ((s.reg x).getLsbD k && (s.reg y).getLsbD k) ∧
        e.getLsbD k = ((s.reg x).getLsbD k ^^ (s.reg y).getLsbD k)

/-- O11. ADD Vx,Vy wraps modulo 256 and puts the carry into VF, last (R127). -/
def Obligations.AddRegistersSetsCarry : Prop :=
  ∀ x y : Reg, decodeWord (hexWord 0x8 x.val y.val 0x4) = .ok (.addReg x y) ∧ ∀ s : State,
    WritesRegThenFlag (.addReg x y) s x (((s.reg x).toNat + (s.reg y).toNat) % 256)
      (if (s.reg x).toNat + (s.reg y).toNat > 255 then 1 else 0)

/-- O12. SUB and SUBN subtract modulo 256; VF is 1 exactly when the minuend is strictly greater (R128, R130). -/
def Obligations.SubtractsSetStrictBorrowFlag : Prop :=
  ∀ x y : Reg,
    decodeWord (hexWord 0x8 x.val y.val 0x5) = .ok (.sub x y) ∧ decodeWord (hexWord 0x8 x.val y.val 0x7) = .ok (.subn x y) ∧
    ∀ s : State,
      WritesRegThenFlag (.sub x y) s x (((s.reg x).toNat + 256 - (s.reg y).toNat) % 256)
        (if (s.reg x).toNat > (s.reg y).toNat then 1 else 0) ∧
      WritesRegThenFlag (.subn x y) s x (((s.reg y).toNat + 256 - (s.reg x).toNat) % 256)
        (if (s.reg y).toNat > (s.reg x).toNat then 1 else 0)

/-- O13. SHR and SHL shift Vy into Vx; VF is the bit shifted out of the register SHIFT_FLAG_SRC names (R129, R131). -/
def Obligations.ShiftsTakeVyAndSetTheShiftedOutBit : Prop :=
  ∀ x y : Reg,
    decodeWord (hexWord 0x8 x.val y.val 0x6) = .ok (.shr x y) ∧ decodeWord (hexWord 0x8 x.val y.val 0xE) = .ok (.shl x y) ∧
    ∀ (s : State) (f : Byte),
      (s.cfg.shiftFlagSrc = .vy → f = s.reg y) → (s.cfg.shiftFlagSrc = .vx → f = s.reg x) →
      WritesRegThenFlag (.shr x y) s x ((s.reg y).toNat / 2) (f.toNat % 2) ∧
      WritesRegThenFlag (.shl x y) s x ((s.reg y).toNat * 2 % 256) (f.toNat / 128)

/-- O14. RND Vx,kk stores the draw masked by kk, whatever the draw is, and counts the draw (41_alu.md R132, 00_scope.md
R17). The free byte and its counter are the model's own (log entry 4); nothing here rests on a value of either. -/
def Obligations.RndMasksAFreeByte : Prop :=
  ∀ (x : Reg) (kk : Byte), decodeWord (hexWordKk 0xC x.val kk) = .ok (.rnd x kk) ∧ ∀ s : State,
    ∃ t, exec (.rnd x kk) s = .next t ∧ t.reg x = Config.draw8 s.draws &&& kk ∧
      (∀ k, (t.reg x).getLsbD k = true → kk.getLsbD k = true) ∧ t.pc = s.pc + 2 ∧ t.draws = s.draws + 1 ∧
      t = { s with v := t.v, pc := t.pc, draws := t.draws } ∧ RegsSameExcept s t [x] ∧ MemSame s t

/-- O15. VF changes only by the six flag writers or as a named destination (10_state.md R22, 70_reset_and_hazards.md R243,
41_alu.md R120). -/
def Obligations.OnlySixInstructionsClobberVF : Prop :=
  ∀ (i : Instr) (s t : State), exec i s = .next t →
    (t.reg 15 ≠ s.reg 15 →
      i.variant ∈ [.ADD_VX_VY, .SUB_VX_VY, .SUBN_VX_VY, .SHR_VX_VY, .SHL_VX_VY, .DRW_VX_VY_N] ∨
      (∃ kk, i = .ldImm 15 kk ∨ i = .addImm 15 kk ∨ i = .rnd 15 kk) ∨
      (∃ y, i = .ldReg 15 y ∨ i = .orReg 15 y ∨ i = .andReg 15 y ∨ i = .xorReg 15 y) ∨
      i = .ldVxDT 15 ∨ i = .ldVxK 15 ∨ i = .loadRegs 15) ∧
    (i.variant ∈ [.ADD_VX_VY, .SUB_VX_VY, .SUBN_VX_VY, .SHR_VX_VY, .SHL_VX_VY, .DRW_VX_VY_N] →
      t.reg 15 = 0 ∨ t.reg 15 = 1 ∨ i.variant = .DRW_VX_VY_N ∧ Raised s t (.unspecified .dataOob))

/-- O16. CLS zeroes the whole framebuffer and nothing else (R140). -/
def Obligations.ClsClearsTheFramebuffer : Prop :=
  decodeWord 0x00E0 = .ok .cls ∧ ∀ s : State, ∃ t, exec .cls s = .next t ∧ (∀ k (h : k < 256), t.fb[k] = 0) ∧
    (∀ px py, pix t.fb px py = false) ∧ t.pc = s.pc + 2 ∧ t = { s with fb := t.fb, pc := t.pc } ∧
    RegsSameExcept s t [] ∧ MemSame s t

/-- O17. DRW toggles exactly the pixels under the sprite's 1 bits, wrapped, and VF reports a collision (R141, R143). -/
def Obligations.DrwTogglesExactlyTheSpritePixels : Prop :=
  ∀ (x y : Reg) (n : Height), decodeWord (hexWord 0xD x.val y.val n.val) = .ok (.drw x y n) ∧ ∀ s : State,
    (0 < n.val → s.cfg.memSize ≤ s.effAddr (n.val - 1) → Raises (.drw x y n) s (.unspecified .dataOob)) ∧
    ((n.val = 0 ∨ s.effAddr (n.val - 1) < s.cfg.memSize) → ∃ t, exec (.drw x y n) s = .next t ∧
      (∀ px py, pix t.fb px py = true ↔
        ¬ (pix s.fb px py = true ↔ SpriteCovers s (s.reg x).toNat (s.reg y).toNat n.val px py)) ∧
      ((∃ px py, pix s.fb px py = true ∧ SpriteCovers s (s.reg x).toNat (s.reg y).toNat n.val px py) → t.reg 15 = 1) ∧
      (¬ (∃ px py, pix s.fb px py = true ∧ SpriteCovers s (s.reg x).toNat (s.reg y).toNat n.val px py) → t.reg 15 = 0) ∧
      t.pc = s.pc + 2 ∧ t = { s with fb := t.fb, v := t.v, pc := t.pc } ∧ RegsSameExcept s t [15] ∧ MemSame s t)

/-- O18. Drawing by framebuffer bytes with a shift of x mod 8 is the same as drawing pixel by pixel (42_display.md R141,
10_state.md R31, 42_display.md R142). -/
def Obligations.DrawByBytesAgreesWithDrawByPixels : Prop :=
  ∀ (x0 y0 r : Nat) (sprite : List Byte) (cv : Canvas), drawRowsBytes x0 y0 r sprite cv = drawRows x0 y0 r sprite cv

/-- O19. The same DRW twice restores the framebuffer; the second reports a collision iff some sprite pixel was dark
(42_display.md R144, 42_display.md R141). -/
def Obligations.DrawingTwiceRestoresThePixels : Prop :=
  ∀ (x y : Reg) (n : Height) (s : State), x ≠ 15 → y ≠ 15 → (n.val = 0 ∨ s.effAddr (n.val - 1) < s.cfg.memSize) →
    ∃ t u, exec (.drw x y n) s = .next t ∧ exec (.drw x y n) t = .next u ∧
      u.fb = s.fb ∧
      (u.reg 15 = 1 ↔ ∃ px py, pix s.fb px py = false ∧ SpriteCovers s (s.reg x).toNat (s.reg y).toNat n.val px py) ∧
      (s.fb = Vector.replicate 256 0 → (∃ r, r < n.val ∧ s.readMem (s.effAddr r) ≠ 0) → u.reg 15 = 1)

/-- O20. SKP and SKNP test the key whose code is the whole byte V[x]; a code of 0x10 or more raises Unspecified (R150, R151,
R152). -/
def Obligations.KeySkipsTestOneKey : Prop :=
  ∀ x : Reg, decodeWord (hexWordKk 0xE x.val 0x9E) = .ok (.skp x) ∧ decodeWord (hexWordKk 0xE x.val 0xA1) = .ok (.sknp x) ∧
    ∀ s : State,
      (0x10 ≤ (s.reg x).toNat → Raises (.skp x) s (.unspecified .keyIndex) ∧ Raises (.sknp x) s (.unspecified .keyIndex)) ∧
      ∀ h : (s.reg x).toNat < 0x10,
        (s.keys[(s.reg x).toNat] = true → OnlyGoesTo (.skp x) s (s.pc + 4) ∧ OnlyGoesTo (.sknp x) s (s.pc + 2)) ∧
        (s.keys[(s.reg x).toNat] = false → OnlyGoesTo (.skp x) s (s.pc + 2) ∧ OnlyGoesTo (.sknp x) s (s.pc + 4))

/-- O21. LD Vx,K stores the lowest key that is down, or changes nothing and is charged (43_keypad.md R153). -/
def Obligations.KeyWaitTakesTheLowestKeyOrPolls : Prop :=
  ∀ x : Reg, decodeWord (hexWordKk 0xF x.val 0x0A) = .ok (.ldVxK x) ∧ StepRuns (hexWordKk 0xF x.val 0x0A) (.ldVxK x) ∧
    ∀ s : State,
      (∀ k : Fin 16, s.keys[k.val] = true → (∀ j : Fin 16, j < k → s.keys[j.val] = false) →
        WritesReg (.ldVxK x) s x (BitVec.ofNat 8 k.val)) ∧
      ((∀ k : Fin 16, s.keys[k.val] = false) → exec (.ldVxK x) s = .next s)

/-- O22. LD I,nnn and ADD I,Vx write I alone; the add wraps at 65536 and leaves VF (R160, R164). -/
def Obligations.IndexLoadsAndAdds : Prop :=
  (∀ nnn : Addr12, decodeWord (hexWordNnn 0xA nnn) = .ok (.ldI nnn) ∧ ∀ s, WritesIndex (.ldI nnn) s nnn.toNat) ∧
  ∀ x : Reg, decodeWord (hexWordKk 0xF x.val 0x1E) = .ok (.addI x) ∧
    ∀ s, WritesIndex (.addI x) s ((s.i.toNat + (s.reg x).toNat) % 65536)

/-- O23. LD F,Vx sets I to FONT_BASE + 5 * V[x] for a hexadecimal digit, and raises above 0x0F (R165). -/
def Obligations.LdFPointsAtTheGlyph : Prop :=
  ∀ x : Reg, decodeWord (hexWordKk 0xF x.val 0x29) = .ok (.ldF x) ∧ ∀ s : State,
    ((s.reg x).toNat ≤ 0x0F → WritesIndex (.ldF x) s (s.cfg.fontBase.val + 5 * (s.reg x).toNat) ∧
      s.cfg.fontBase.val + 5 * (s.reg x).toNat ≤ 0x1FB) ∧
    (0x0F < (s.reg x).toNat → Raises (.ldF x) s (.unspecified .fontDigit))

/-- O24. LD Vx,DT, LD DT,Vx and LD ST,Vx copy one byte; the tone flag is untouched (44_timer_index_memory.md R161,
44_timer_index_memory.md R162, 44_timer_index_memory.md R163). -/
def Obligations.TimerMovesCopyOneByte : Prop :=
  ∀ x : Reg, decodeWord (hexWordKk 0xF x.val 0x07) = .ok (.ldVxDT x) ∧ decodeWord (hexWordKk 0xF x.val 0x15) = .ok (.ldDTVx x) ∧
    decodeWord (hexWordKk 0xF x.val 0x18) = .ok (.ldSTVx x) ∧ ∀ s : State,
      WritesReg (.ldVxDT x) s x s.dt ∧
      (∃ t, exec (.ldDTVx x) s = .next t ∧ t.dt = s.reg x ∧ t.pc = s.pc + 2 ∧ t.tone = s.tone ∧
        t = { s with dt := t.dt, pc := t.pc } ∧ RegsSameExcept s t [] ∧ MemSame s t) ∧
      (∃ t, exec (.ldSTVx x) s = .next t ∧ t.st = s.reg x ∧ t.pc = s.pc + 2 ∧ t.tone = s.tone ∧
        t = { s with st := t.st, pc := t.pc } ∧ RegsSameExcept s t [] ∧ MemSame s t)

/-- O25. LD B,Vx stores hundreds, tens and ones at I, I+1, I+2, all three or none (R166). -/
def Obligations.LdBStoresDecimalDigits : Prop :=
  ∀ x : Reg, decodeWord (hexWordKk 0xF x.val 0x33) = .ok (.ldB x) ∧ ∀ s : State,
    (s.cfg.memSize ≤ s.effAddr 2 → Raises (.ldB x) s (.unspecified .dataOob)) ∧
    (s.effAddr 2 < s.cfg.memSize → ∃ t, exec (.ldB x) s = .next t ∧ t.pc = s.pc + 2 ∧
      t = { s with mem := t.mem, pc := t.pc } ∧ RegsSameExcept s t [] ∧
      (MemOk s → (t.readMem (s.effAddr 0)).toNat = (s.reg x).toNat / 100 ∧
        (t.readMem (s.effAddr 1)).toNat = (s.reg x).toNat / 10 % 10 ∧
        (t.readMem (s.effAddr 2)).toNat = (s.reg x).toNat % 10 ∧ MemSameOutside s t (s.effAddr 0) 3))

/-- O26. LD [I],Vx stores V0..Vx at I on, all or none, and leaves I (R167). -/
def Obligations.DumpStoresRegistersUpToVx : Prop :=
  ∀ x : Reg, decodeWord (hexWordKk 0xF x.val 0x55) = .ok (.dumpRegs x) ∧ ∀ s : State,
    (s.cfg.memSize ≤ s.effAddr x.val → Raises (.dumpRegs x) s (.unspecified .dataOob)) ∧
    (s.effAddr x.val < s.cfg.memSize → ∃ t, exec (.dumpRegs x) s = .next t ∧ t.pc = s.pc + 2 ∧
      t = { s with mem := t.mem, pc := t.pc } ∧ RegsSameExcept s t [] ∧
      (MemOk s → (∀ k : Reg, k ≤ x → t.readMem (s.effAddr k.val) = s.reg k) ∧
        MemSameOutside s t (s.effAddr 0) (x.val + 1)))

/-- O27. LD Vx,[I] loads V0..Vx from memory at I on, all or none, and leaves I (R168). -/
def Obligations.LoadFillsRegistersUpToVx : Prop :=
  ∀ x : Reg, decodeWord (hexWordKk 0xF x.val 0x65) = .ok (.loadRegs x) ∧ ∀ s : State,
    (s.cfg.memSize ≤ s.effAddr x.val → Raises (.loadRegs x) s (.unspecified .dataOob)) ∧
    (s.effAddr x.val < s.cfg.memSize → ∃ t, exec (.loadRegs x) s = .next t ∧ t.pc = s.pc + 2 ∧
      (∀ k : Reg, k ≤ x → t.reg k = s.readMem (s.effAddr k.val)) ∧ (∀ k : Reg, x < k → t.reg k = s.reg k) ∧
      t = { s with v := t.v, pc := t.pc } ∧ MemSame s t)

/-- O28. Registers stored with LD [I],Vx come back with LD Vx,[I] at the same I (44_timer_index_memory.md R167,
44_timer_index_memory.md R168, 20_memory.md R60). -/
def Obligations.DumpThenLoadGivesTheRegistersBack : Prop :=
  ∀ (x : Reg) (s : State), MemOk s → s.effAddr x.val < s.cfg.memSize → ∃ t, exec (.dumpRegs x) s = .next t ∧
    ∀ u : State, u.mem = t.mem → u.cfg = s.cfg → u.i = s.i →
      ∃ r, exec (.loadRegs x) u = .next r ∧ ∀ k : Reg, k ≤ x → r.reg k = s.reg k

/-- O29. A word stored with LD [I],Vx is what the next fetch at that address reads (20_memory.md R62, 20_memory.md R52). -/
def Obligations.FetchSeesTheStoredBytes : Prop :=
  ∀ (x : Reg) (s : State), MemOk s → 1 ≤ x.val → s.effAddr x.val < s.cfg.memSize → ∃ t, exec (.dumpRegs x) s = .next t ∧
    ∀ u : State, u.mem = t.mem → u.cfg = s.cfg → u.pc = s.i →
      u.fetchWord.toNat = (s.reg 0).toNat * 256 + (s.reg 1).toNat

/-- O30. Decoding the encoding of a well-formed instruction gives it back, from the word and from bytes (30_encoding.md R71,
30_encoding.md R75, 30_encoding.md R82, 20_memory.md R52). -/
def Obligations.DecodeOfEncodeIsTheInstruction : Prop :=
  ∀ i : Instr, i.wf = true → decodeWord (encode i) = .ok i ∧
    ∀ rest, decode (encodeBytes i ++ rest) = .ok (i, rest)

/-- O31. A word that decodes is the encoding of what it decodes to, which is well-formed (30_encoding.md R75, 30_encoding.md
R82). -/
def Obligations.EncodeOfDecodeIsTheWord : Prop :=
  ∀ (w : Word) (i : Instr), decodeWord w = .ok i → i.wf = true ∧ encode i = w

/-- O32. The two-level decoder and the table of masks give every word the same variant (30_encoding.md R74, 30_encoding.md
R75, 30_encoding.md R82). -/
def Obligations.DecoderAgreesWithTheOpcodeTable : Prop :=
  ∀ w : Word, (decodeWord w).toOption.map Instr.variant = tableVariant w

/-- O33. Decoding fails, with UnknownOpcode of the word, exactly on the words listed as illegal (30_encoding.md R81,
30_encoding.md R76, 30_encoding.md R77, 30_encoding.md R78, 30_encoding.md R79, 30_encoding.md R80). -/
def Obligations.DecoderRefusesExactlyTheIllegalWords : Prop :=
  ∀ w : Word, (IllegalWord w → decodeWord w = .error (.unknownOpcode w)) ∧
    (¬ IllegalWord w → ∃ i, decodeWord w = .ok i)

/-- O34. Words of the spec's own examples decode to the instructions they stand for (95_test_vectors.md part 2.1,
30_encoding.md R75). -/
def Obligations.SpecWordsDecodeAsWritten : Prop :=
  decodeWord 0xD12A = .ok (.drw 1 2 0xA) ∧ decodeWord 0x6FAB = .ok (.ldImm 15 0xAB) ∧ decodeWord 0xABCD = .ok (.ldI 0xBCD) ∧
  decodeWord 0x5120 = .ok (.seReg 1 2) ∧ decodeWord 0x5121 = .error (.unknownOpcode 0x5121) ∧
  decodeWord 0x812E = .ok (.shl 1 2) ∧ decodeWord 0x0000 = .ok (.sys 0) ∧ decodeWord 0xE29E = .ok (.skp 2) ∧
  decodeWord 0xF255 = .ok (.dumpRegs 2)

/-- O35. A drain iteration is exec of the decoded instruction, charged its cost unless it raised (49_frame_scheduler.md
R187, 20_memory.md R52, 00_scope.md R16). -/
def Obligations.StepRunsTheDecodedInstruction : Prop :=
  ∀ (s : State) (i : Instr), s.phase = .draining → 0 < s.budget → s.pc.toNat + 1 < s.cfg.memSize →
    decodeWord (BitVec.ofNat 16 ((s.readMem s.pc.toNat).toNat * 256 + (s.readMem (s.pc.toNat + 1)).toNat)) = .ok i →
    (∀ t, exec i s = .next t → t.phase = .draining → step s = .next { t with budget := t.budget - s.cfg.cost i.variant }) ∧
    (∀ t, exec i s = .next t → t.phase = .idle → step s = .next t) ∧
    ∃ t, exec i s = .next t

/-- O36. A fetched word that matches no row raises UnknownOpcode and changes nothing else (60_exceptions.md R202,
49_frame_scheduler.md R189, 60_exceptions.md R212). -/
def Obligations.IllegalWordAbortsTheCycle : Prop :=
  ∀ (s : State) (w : Word), AboutToRun s w → IllegalWord w → ∃ t, step s = .next t ∧ Raised s t (.unknownOpcode w)

/-- O37. A fetch at or above MEM_SIZE raises ProgramCounterOutOfBounds; one at MEM_SIZE - 1 raises Unspecified (20_memory.md
R56, 60_exceptions.md R201, 60_exceptions.md R210). -/
def Obligations.FetchChecksTheBounds : Prop :=
  ∀ s : State, s.phase = .draining → 0 < s.budget →
    (s.cfg.memSize ≤ s.pc.toNat → ∃ t, step s = .next t ∧ Raised s t (.programCounterOutOfBounds s.pc)) ∧
    (s.pc.toNat + 1 = s.cfg.memSize → ∃ t, step s = .next t ∧ Raised s t (.unspecified .fetchStraddle))

/-- O38. A step that reports an error to the host has changed nothing else (60_exceptions.md R212, 00_scope.md R16,
49_frame_scheduler.md R189). -/
def Obligations.ErrorsArePrecise : Prop :=
  ∀ (s t : State) (e : FatalError), step s = .next t → t.replies = .cycleFailed e :: s.replies →
    s.phase = .draining ∧ 0 < s.budget ∧ Raised s t e

/-- O39. After an error the next CYCLE raises the same error at its first iteration (60_exceptions.md R213). -/
def Obligations.FailedCycleFailsAgain : Prop :=
  ∀ (s t : State) (e : FatalError), s.phase = .draining → 0 < s.budget → step s = .next t →
    t.replies = .cycleFailed e :: s.replies →
    ∀ (snapshot : BitVec 16) (rest : List HostOp), ∃ u r,
      step { t with calls := .cycle snapshot :: rest } = .next u ∧ u.phase = .draining ∧ step u = .next r ∧
      r.replies = .cycleFailed e :: t.replies ∧ r.pc = s.pc

/-- O40. Every step answers a next state, and each error reported has its cause in the order of the spec (60_exceptions.md
R210, 60_exceptions.md R207, 60_exceptions.md R202, 60_exceptions.md R204, 60_exceptions.md R205). -/
def Obligations.EveryStepAnswersAndErrorsHaveTheirCause : Prop :=
  ∀ s : State, (∃ t, step s = .next t) ∧ ∀ t e, step s = .next t → t.replies = .cycleFailed e :: s.replies →
    (s.cfg.memSize ≤ s.pc.toNat → e = .programCounterOutOfBounds s.pc) ∧
    (s.pc.toNat + 1 = s.cfg.memSize → e = .unspecified .fetchStraddle) ∧
    (s.pc.toNat + 1 < s.cfg.memSize → (IllegalWord s.fetchWord ∧ e = .unknownOpcode s.fetchWord) ∨
      ∃ i, decodeWord s.fetchWord = .ok i ∧ CanRaise i e)

/-- O41. CYCLE applies the keys, ticks both timers, raises the tone at ST = 1, adds 16666 and enters the loop
(49_frame_scheduler.md R181, 49_frame_scheduler.md R182, 49_frame_scheduler.md R183, 49_frame_scheduler.md R184,
49_frame_scheduler.md R185, 49_frame_scheduler.md R196). That these steps of CYCLE are one step of the model, and that the
call is taken off a list, is the model's form (R196 allows the grain; log entry 3). -/
def Obligations.FrameStartTicksThenAddsTheFrame : Prop :=
  ∀ (s : State) (snapshot : BitVec 16) (rest : List HostOp), s.phase = .idle → s.calls = .cycle snapshot :: rest →
    ∃ t, step s = .next t ∧ (∀ k : Fin 16, t.keyDown k = snapshot.getLsbD k.val) ∧ t.dt.toNat = s.dt.toNat - 1 ∧
      t.st.toNat = s.st.toNat - 1 ∧ (s.st = 1 → t.tone = true) ∧ (s.st ≠ 1 → t.tone = s.tone) ∧
      t.budget = s.budget + 16666 ∧ t.phase = .draining ∧ t.calls = rest ∧
      t = { s with keys := t.keys, dt := t.dt, st := t.st, tone := t.tone, budget := t.budget, phase := t.phase,
                   calls := t.calls } ∧ RegsSameExcept s t [] ∧ MemSame s t

/-- O42. With no budget left the drain loop ends: CYCLE returns without error and nothing else changes
(49_frame_scheduler.md R186). -/
def Obligations.DrainLoopEndsWithTheBudget : Prop :=
  ∀ s : State, s.phase = .draining → s.budget ≤ 0 → ∃ t, step s = .next t ∧ t.phase = .idle ∧
    t.replies = .cycleDone :: s.replies ∧ t = { s with phase := t.phase, replies := t.replies }

/-- O43. FB_READ returns the 256 bytes and changes nothing; TONE_READ returns the flag and clears it (R190, R191). -/
def Obligations.HostReadsReturnTheirValue : Prop :=
  ∀ (s : State) (rest : List HostOp), s.phase = .idle →
    (s.calls = .fbRead :: rest → step s = .next { s with calls := rest, replies := .bitmap s.fb :: s.replies }) ∧
    (s.calls = .toneRead :: rest →
      step s = .next { s with calls := rest, replies := .tone s.tone :: s.replies, tone := false })

/-- O44. RESET makes a fresh machine with font and program, or refuses a program longer than MEM_SIZE - 0x200
(70_reset_and_hazards.md R230, 70_reset_and_hazards.md R231, 70_reset_and_hazards.md R232, 70_reset_and_hazards.md R233,
10_state.md R36). That RESET keeps the draw counter is the model's choice (log entry 4), and so is that one state holds one
machine, which a RESET that succeeds replaces and one that fails leaves (log entry 8). -/
def Obligations.ResetLoadsTheProgramOrRefusesIt : Prop :=
  ∀ (s : State) (program : List Byte) (rest : List HostOp), s.phase = .idle → s.calls = .reset program :: rest →
    (program.length ≤ s.cfg.memSize - 0x200 → ∃ t, step s = .next t ∧ IsFresh t program ∧ t.cfg = s.cfg ∧ t.draws = s.draws ∧
      t.calls = rest ∧ t.replies = .machineReady :: s.replies) ∧
    (s.cfg.memSize - 0x200 < program.length →
      step s = .next { s with calls := rest, replies := .loadFailed .programTooLarge :: s.replies })

/-- O45. State.reset is a fresh machine with an empty program (10_state.md R36, 70_reset_and_hazards.md R230). -/
def Obligations.ResetStateIsTheResetTable : Prop :=
  IsFresh State.reset []

/-- O46. Between host operations nothing changes (49_frame_scheduler.md R192). -/
def Obligations.IdleMachineWaitsForTheHost : Prop :=
  ∀ s : State, s.phase = .idle → s.calls = [] → step s = .next s

/-- O47. Which instruction may change which part of the machine: the access matrix (10_state.md R38, 20_memory.md R64,
10_state.md R29, 10_state.md R27). -/
def Obligations.InstructionsWriteOnlyTheirOwnState : Prop :=
  ∀ (i : Instr) (s t : State), exec i s = .next t →
    (t.fb ≠ s.fb → i.variant ∈ [.CLS, .DRW_VX_VY_N]) ∧ (t.stack ≠ s.stack → i.variant = .CALL) ∧
    (t.sp ≠ s.sp → i.variant ∈ [.CALL, .RET]) ∧ (t.dt ≠ s.dt → i.variant = .LD_DT_VX) ∧
    (t.st ≠ s.st → i.variant = .LD_ST_VX) ∧ (t.i ≠ s.i → i.variant ∈ [.LD_I_NNN, .ADD_I_VX, .LD_F_VX]) ∧
    (t.mem ≠ s.mem → i.variant ∈ [.LD_B_VX, .LD_I_VX]) ∧
    t.keys = s.keys ∧ t.tone = s.tone ∧ t.budget = s.budget ∧ t.cfg = s.cfg ∧ t.calls = s.calls

/-- O48. No instruction's effect depends on ST, the tone flag, the budget or the host's calls (10_state.md R29, 10_state.md
R33, 10_state.md R28, 10_state.md R38). -/
def Obligations.InstructionsCannotSeeHiddenState : Prop :=
  ∀ (i : Instr) (s t : State) (tn : Bool) (b : Int) (cs : List HostOp) (st' : Byte),
    exec i s = .next t → ∃ u, exec i { s with tone := tn, budget := b, calls := cs, st := st' } = .next u ∧
      u = { t with tone := tn, budget := b, calls := cs, st := u.st } ∧
      (i.variant ≠ .LD_ST_VX → u.st = st') ∧ (i.variant = .LD_ST_VX → u.st = t.st)

/-- O49. Keys change only when a frame starts or at RESET; DT and ST only then or by their own instruction
(70_reset_and_hazards.md R236, 70_reset_and_hazards.md R237, 10_state.md R28, 10_state.md R38). -/
def Obligations.KeysAndTimersMoveOnlyAtFrameStartsOrReset : Prop :=
  ∀ s t : State, step s = .next t →
    let hostMoves := s.phase = .idle ∧ ∃ op rest, s.calls = op :: rest ∧ op ≠ .fbRead ∧ op ≠ .toneRead
    (t.keys ≠ s.keys → hostMoves) ∧
    (t.dt ≠ s.dt → hostMoves ∨ s.phase = .draining ∧ ∃ x, decodeWord s.fetchWord = .ok (.ldDTVx x)) ∧
    (t.st ≠ s.st → hostMoves ∨ s.phase = .draining ∧ ∃ x, decodeWord s.fetchWord = .ok (.ldSTVx x))

/-- O50. The tone flag rises only at a tick with ST = 1 and falls only by TONE_READ or RESET (10_state.md R29,
49_frame_scheduler.md R184, 49_frame_scheduler.md R191). -/
def Obligations.ToneIsSetByTheTickAndClearedByTheHost : Prop :=
  ∀ s t : State, step s = .next t →
    (s.tone = false → t.tone = true → s.phase = .idle ∧ s.st = 1 ∧ ∃ snapshot rest, s.calls = .cycle snapshot :: rest) ∧
    (s.tone = true → t.tone = false → s.phase = .idle ∧ ∃ rest, s.calls = .toneRead :: rest ∨
      ∃ program, s.calls = .reset program :: rest)

/-- O51. No step changes the parameters of the machine (10_state.md R35, 00_scope.md R4). -/
def Obligations.ParametersNeverChange : Prop :=
  ∀ s t : State, step s = .next t → t.cfg = s.cfg

/-- O52. Every step keeps memory in its canonical form (20_memory.md R50, 20_memory.md R55, 10_state.md R32). -/
def Obligations.StepKeepsMemoryCanonical : Prop :=
  ∀ s t : State, MemOk s → step s = .next t → MemOk t

/-- O53. Memory is canonical at reset (10_state.md R36). -/
def Obligations.ResetMemoryIsCanonical : Prop :=
  MemOk State.reset

/-- O54. Two canonical memories that read the same everywhere are the same data (20_memory.md R57, 20_memory.md R60). -/
def Obligations.CanonicalMemoriesThatReadAlikeAreEqual : Prop :=
  ∀ (c : Config) (m m' : Memory), m.wf c = true → m'.wf c = true → (∀ a, m.read c a = m'.read c a) → m = m'

/-- O55. As long as no CYCLE has failed, the budget stays within its bounds at every step (49_frame_scheduler.md R194,
10_state.md R33). -/
def Obligations.StepKeepsTheBudgetBounds : Prop :=
  ∀ s t : State, BudgetInv s → step s = .next t → BudgetInv t

/-- O56. The budget is within its bounds at reset (49_frame_scheduler.md R194, 10_state.md R36). -/
def Obligations.ResetBudgetIsWithinBounds : Prop :=
  BudgetInv State.reset

/-- O57. The drain loop ends within as many iterations as there are microseconds of budget (49_frame_scheduler.md R188,
00_scope.md R10). -/
def Obligations.CycleAlwaysReturns : Prop :=
  ∀ s : State, s.phase = .draining → ∃ k, k ≤ s.budget.toNat + 1 ∧
    ∃ t, RunsTo k s t ∧ t.phase = .idle

/-- O58. With one cost c for all variants, a frame executes the least n instructions with n times c at or above its budget
(49_frame_scheduler.md R195, 49_frame_scheduler.md R187, 49_frame_scheduler.md R186). -/
def Obligations.UniformCostFixesTheInstructionCount : Prop :=
  ∀ (c n : Nat) (s t : State), s.phase = .draining → s.calls = [] → (∀ v, s.cfg.cost v = c) →
    RunsTo n s t → t.phase = .draining → t.budget = s.budget - (n : Int) * c ∧ (∀ m, m < n → (m : Int) * c < s.budget) ∧
      (s.budget ≤ (n : Int) * c ↔ step t = .next { t with phase := .idle, replies := .cycleDone :: t.replies })

/-- O59. Unspecified is returned to the host with nothing else changed; the host may then call anything, and a CYCLE meets
it again (60_exceptions.md R207, 60_exceptions.md R211, 60_exceptions.md R212, 60_exceptions.md R213). -/
def Obligations.UnspecifiedIsReportedLikeTheOtherErrors : Prop :=
  ∀ (s t : State) (tag : UnspecifiedTag), step s = .next t → t.replies = .cycleFailed (.unspecified tag) :: s.replies →
    Raised s t (.unspecified tag) ∧
    (∀ op rest, ∃ u, step { t with calls := op :: rest } = .next u ∧ u.calls = rest) ∧
    ∀ snapshot rest, ∃ u r, step { t with calls := .cycle snapshot :: rest } = .next u ∧ step u = .next r ∧
      Raised u r (.unspecified tag)
end

