-- ==== Sys2Proof/Laws/Decode.lean ====
section
/-! SUPPORT. The fields of a word as numbers, and the fields of a word written by its hexadecimal digits: what decoding a
pattern of R75 needs. -/

namespace Sys2Proof

/-! ### Fields of any word -/

theorem fieldOp_eq (w : Word) : fieldOp w = w.toNat / 4096 := by
  have := w.isLt
  simp only [fieldOp, BitVec.extractLsb'_toNat, Nat.shiftRight_eq_div_pow]
  omega

theorem fieldX_val (w : Word) : (fieldX w).val = w.toNat / 256 % 16 := by
  simp only [fieldX, BitVec.extractLsb'_toNat, Nat.shiftRight_eq_div_pow]

theorem fieldY_val (w : Word) : (fieldY w).val = w.toNat / 16 % 16 := by
  simp only [fieldY, BitVec.extractLsb'_toNat, Nat.shiftRight_eq_div_pow]

theorem fieldN_val (w : Word) : (fieldN w).val = w.toNat % 16 := by
  simp only [fieldN, BitVec.extractLsb'_toNat, Nat.shiftRight_eq_div_pow]
  omega

theorem fieldKk_toNat (w : Word) : (fieldKk w).toNat = w.toNat % 256 := by
  simp only [fieldKk, BitVec.extractLsb'_toNat, Nat.shiftRight_eq_div_pow]
  omega

theorem fieldNnn_toNat (w : Word) : (fieldNnn w).toNat = w.toNat % 4096 := by
  simp only [fieldNnn, BitVec.extractLsb'_toNat, Nat.shiftRight_eq_div_pow]
  omega

/-! ### Words as numbers -/

theorem toNat_hexWord {a b c d : Nat} (ha : a < 16) (hb : b < 16) (hc : c < 16) (hd : d < 16) :
    (hexWord a b c d).toNat = a * 4096 + b * 256 + c * 16 + d := by
  simp only [hexWord, BitVec.toNat_ofNat]
  omega

theorem toNat_hexWordKk {a b : Nat} (ha : a < 16) (hb : b < 16) (kk : Byte) :
    (hexWordKk a b kk).toNat = a * 4096 + b * 256 + kk.toNat := by
  have := kk.isLt
  simp only [hexWordKk, BitVec.toNat_ofNat]
  omega

theorem toNat_hexWordNnn {a : Nat} (ha : a < 16) (nnn : Addr12) : (hexWordNnn a nnn).toNat = a * 4096 + nnn.toNat := by
  have := nnn.isLt
  simp only [hexWordNnn, BitVec.toNat_ofNat]
  omega

/-! ### Fields of the patterns of R75 -/

@[simp] theorem fieldOp_hexWord {a d : Nat} (ha : a < 16) (x y : Fin 16) (hd : d < 16) :
    fieldOp (hexWord a x.val y.val d) = a := by
  rw [fieldOp_eq, toNat_hexWord ha x.isLt y.isLt hd]
  omega

@[simp] theorem fieldX_hexWord {a d : Nat} (ha : a < 16) (x y : Fin 16) (hd : d < 16) :
    fieldX (hexWord a x.val y.val d) = x := by
  rw [Fin.ext_iff, fieldX_val, toNat_hexWord ha x.isLt y.isLt hd]
  omega

@[simp] theorem fieldY_hexWord {a d : Nat} (ha : a < 16) (x y : Fin 16) (hd : d < 16) :
    fieldY (hexWord a x.val y.val d) = y := by
  rw [Fin.ext_iff, fieldY_val, toNat_hexWord ha x.isLt y.isLt hd]
  omega

@[simp] theorem fieldN_hexWord {a d : Nat} (ha : a < 16) (x y : Fin 16) (hd : d < 16) :
    fieldN (hexWord a x.val y.val d) = ⟨d, hd⟩ := by
  rw [Fin.ext_iff, fieldN_val, toNat_hexWord ha x.isLt y.isLt hd]
  show _ = d
  omega

@[simp] theorem fieldOp_hexWordKk {a : Nat} (ha : a < 16) (x : Fin 16) (kk : Byte) :
    fieldOp (hexWordKk a x.val kk) = a := by
  have := kk.isLt
  rw [fieldOp_eq, toNat_hexWordKk ha x.isLt]
  omega

@[simp] theorem fieldX_hexWordKk {a : Nat} (ha : a < 16) (x : Fin 16) (kk : Byte) :
    fieldX (hexWordKk a x.val kk) = x := by
  have := kk.isLt
  rw [Fin.ext_iff, fieldX_val, toNat_hexWordKk ha x.isLt]
  omega

@[simp] theorem fieldKk_hexWordKk {a : Nat} (ha : a < 16) (x : Fin 16) (kk : Byte) :
    fieldKk (hexWordKk a x.val kk) = kk := by
  have := kk.isLt
  apply BitVec.eq_of_toNat_eq
  rw [fieldKk_toNat, toNat_hexWordKk ha x.isLt]
  omega

@[simp] theorem fieldOp_hexWordNnn {a : Nat} (ha : a < 16) (nnn : Addr12) : fieldOp (hexWordNnn a nnn) = a := by
  have := nnn.isLt
  rw [fieldOp_eq, toNat_hexWordNnn ha]
  omega

@[simp] theorem fieldNnn_hexWordNnn {a : Nat} (ha : a < 16) (nnn : Addr12) : fieldNnn (hexWordNnn a nnn) = nnn := by
  have := nnn.isLt
  apply BitVec.eq_of_toNat_eq
  rw [fieldNnn_toNat, toNat_hexWordNnn ha]
  omega

/-! ### Encoded words as numbers -/

theorem toNat_formatAddr (op : BitVec 4) (nnn : Addr12) : (formatAddr op nnn).toNat = op.toNat * 4096 + nnn.toNat := by
  have := nnn.isLt
  rw [formatAddr, BitVec.toNat_append, ← Nat.shiftLeft_add_eq_or_of_lt (by omega), Nat.shiftLeft_eq]

theorem toNat_nibble (r : Fin 16) : (nibble r).toNat = r.val := by
  simp only [nibble, BitVec.toNat_ofNat]
  omega

theorem toNat_append8 (a b : BitVec 4) : (a ++ b : BitVec 8).toNat = a.toNat * 16 + b.toNat := by
  have := b.isLt
  rw [BitVec.toNat_append, ← Nat.shiftLeft_add_eq_or_of_lt (by omega), Nat.shiftLeft_eq]

theorem toNat_append16 (a b : BitVec 8) : (a ++ b : BitVec 16).toNat = a.toNat * 256 + b.toNat := by
  have := b.isLt
  rw [BitVec.toNat_append, ← Nat.shiftLeft_add_eq_or_of_lt (by omega), Nat.shiftLeft_eq]

theorem toNat_formatXkk (op : BitVec 4) (x : Reg) (kk : Byte) :
    (formatXkk op x kk).toNat = op.toNat * 4096 + x.val * 256 + kk.toNat := by
  rw [formatXkk, toNat_append16, toNat_append8, toNat_nibble]
  ring

theorem toNat_formatXyn (op : BitVec 4) (x y : Reg) (n : Fin 16) :
    (formatXyn op x y n).toNat = op.toNat * 4096 + x.val * 256 + y.val * 16 + n.val := by
  rw [formatXyn, toNat_append16, toNat_append8, toNat_append8, toNat_nibble, toNat_nibble, toNat_nibble]
  ring

/-- The word two bytes form, as a number: the byte at the lower address is the high one (R52). -/
theorem toNat_wordOfBytes (hi lo : Byte) : (wordOfBytes hi lo).toNat = hi.toNat * 256 + lo.toNat := toNat_append16 hi lo

theorem wordOfBytes_hiByte_loByte (w : Word) : wordOfBytes (hiByte w) (loByte w) = w := by
  apply BitVec.eq_of_toNat_eq
  have := w.isLt
  simp only [toNat_wordOfBytes, hiByte, loByte, BitVec.extractLsb'_toNat, Nat.shiftRight_eq_div_pow]
  omega

end Sys2Proof
end

