-- ==== Sys2Proof/Laws/Display.lean ====
section
/-! SUPPORT. What the draw operations do to each pixel, said once: a toggle, one pixel of a sprite, one row of a sprite. -/

namespace Sys2Proof.Machine

/-- Two pixels in one framebuffer byte lie in one row and one byte column (R31). -/
theorem pixelByte_inj {px qx : Fin 64} {py qy : Fin 32} (h : (pixelByte px py).val = (pixelByte qx qy).val) :
    py = qy ∧ px.val / 8 = qx.val / 8 := by
  simp only [pixelByte] at h
  constructor
  · apply Fin.ext; omega
  · omega

theorem getLsbD_one_shiftLeft (n k : Nat) (hk : k < 8) : (1#8 <<< n).getLsbD k = decide (k = n) := by
  rw [BitVec.getLsbD_shiftLeft]
  by_cases h : k = n
  · subst h; simp [hk]
  · by_cases h2 : k < n
    · simp [h2, h]
    · have : k - n ≠ 0 := by omega
      simp [h, h2, hk, BitVec.getLsbD_one, this]

/-- Toggling a pixel changes that pixel and no other. -/
theorem pix_togglePix (fb : Framebuffer) (px : Fin 64) (py : Fin 32) (qx : Fin 64) (qy : Fin 32) :
    pix (togglePix fb px py) qx qy = (pix fb qx qy ^^ decide (qx = px ∧ qy = py)) := by
  simp only [pix, togglePix]
  have hb : pixelBit qx < 8 := by simp only [pixelBit]; omega
  by_cases h : (pixelByte px py).val = (pixelByte qx qy).val
  · obtain ⟨h1, h2⟩ := pixelByte_inj h
    simp only [← h, Vector.getElem_set_self, BitVec.getLsbD_xor, getLsbD_one_shiftLeft _ _ hb]
    congr 1
    rw [decide_eq_decide]
    simp only [pixelBit, Fin.ext_iff, h1, and_true]
    omega
  · rw [Vector.getElem_set_ne _ _ h]
    have : ¬ (qx = px ∧ qy = py) := by rintro ⟨rfl, rfl⟩; exact h rfl
    simp [this]

theorem pix_drawBit (b : Byte) (x0 : Nat) (py : Fin 32) (cv : Canvas) (c : Nat) (qx : Fin 64) (qy : Fin 32) :
    pix (drawBit b x0 py cv c).fb qx qy =
      (pix cv.fb qx qy ^^ (b.getLsbD (7 - c) && decide (qx = column (x0 + c) ∧ qy = py))) := by
  unfold drawBit
  split
  · rename_i h; rw [pix_togglePix, h]; simp
  · rename_i h; simp [h]

/-- The 2048 pixels are the 256 bytes: framebuffers with the same pixels are equal (R31). -/
theorem fb_eq_of_pix {fb fb' : Framebuffer} (h : ∀ px py, pix fb px py = pix fb' px py) : fb = fb' := by
  apply Vector.ext
  intro k hk
  apply BitVec.eq_of_getLsbD_eq
  intro j hj
  have := h ⟨k % 8 * 8 + (7 - j), by omega⟩ ⟨k / 8, by omega⟩
  simp only [pix, pixelByte, pixelBit] at this
  have e1 : k / 8 * 8 + (k % 8 * 8 + (7 - j)) / 8 = k := by omega
  have e2 : 7 - (k % 8 * 8 + (7 - j)) % 8 = j := by omega
  simpa only [e1, e2] using this

theorem column_inj {x0 c d : Nat} (hc : c < 8) (hd : d < 8) (h : column (x0 + c) = column (x0 + d)) : c = d := by
  have := congrArg Fin.val h
  simp only [column] at this
  omega

/-- The pixels `c` of a sprite row, drawn one after another: which pixels end toggled, and whether one was lit before. -/
theorem foldl_drawBit (b : Byte) (x0 : Nat) (py : Fin 32) (l : List Nat) (hl : l.Nodup) (h8 : ∀ c ∈ l, c < 8) (cv : Canvas) :
    (∀ qx qy, pix (l.foldl (drawBit b x0 py) cv).fb qx qy =
      (pix cv.fb qx qy ^^ decide (∃ c ∈ l, b.getLsbD (7 - c) = true ∧ qx = column (x0 + c) ∧ qy = py))) ∧
    (l.foldl (drawBit b x0 py) cv).coll =
      (cv.coll || decide (∃ c ∈ l, b.getLsbD (7 - c) = true ∧ pix cv.fb (column (x0 + c)) py = true)) := by
  induction l generalizing cv with
  | nil => simp
  | cons d l ih =>
    obtain ⟨hd, hl⟩ := List.nodup_cons.1 hl
    obtain ⟨ih1, ih2⟩ := ih hl (fun c hc => h8 c (List.mem_cons_of_mem _ hc)) (drawBit b x0 py cv d)
    have hd8 := h8 d List.mem_cons_self
    have ne : ∀ c ∈ l, column (x0 + c) ≠ column (x0 + d) := fun c hc e =>
      hd (column_inj (h8 c (List.mem_cons_of_mem _ hc)) hd8 e ▸ hc)
    refine ⟨fun qx qy => ?_, ?_⟩
    · rw [List.foldl_cons, ih1, pix_drawBit, Bool.xor_assoc]
      congr 1
      by_cases hq : b.getLsbD (7 - d) = true ∧ qx = column (x0 + d) ∧ qy = py
      · obtain ⟨h1, rfl, rfl⟩ := hq
        have : ¬ ∃ c ∈ l, b.getLsbD (7 - c) = true ∧ column (x0 + d) = column (x0 + c) ∧ qy = qy :=
          fun ⟨c, hc, _, e, _⟩ => ne c hc e.symm
        simp_all
      · have h0 : (b.getLsbD (7 - d) && decide (qx = column (x0 + d) ∧ qy = py)) = false := by
          exact Bool.eq_false_iff.2 fun h => hq (by simpa using h)
        rw [h0, Bool.false_xor, decide_eq_decide]
        simp only [List.exists_mem_cons_iff, hq, false_or]
    · rw [List.foldl_cons, ih2]
      have same : ∀ c ∈ l, pix (drawBit b x0 py cv d).fb (column (x0 + c)) py = pix cv.fb (column (x0 + c)) py := by
        intro c hc
        rw [pix_drawBit]
        simp [ne c hc]
      have hcoll : (drawBit b x0 py cv d).coll = (cv.coll || (b.getLsbD (7 - d) && pix cv.fb (column (x0 + d)) py)) := by
        unfold drawBit
        split
        · rename_i h; simp [h]
        · rename_i h; simp [h]
      rw [hcoll, Bool.or_assoc]
      congr 1
      rw [Bool.eq_iff_iff]
      simp only [Bool.or_eq_true, Bool.and_eq_true, decide_eq_true_eq, List.exists_mem_cons_iff]
      refine or_congr Iff.rfl (exists_congr fun c => ?_)
      constructor
      · rintro ⟨hc, h1, h2⟩; exact ⟨hc, h1, same c hc ▸ h2⟩
      · rintro ⟨hc, h1, h2⟩; exact ⟨hc, h1, (same c hc).symm ▸ h2⟩

/-- One sprite row: the pixels under its 1 bits are toggled, and it collides when one of them was lit (R141, R143). -/
theorem drawRow_spec (b : Byte) (x0 : Nat) (py : Fin 32) (cv : Canvas) :
    (∀ qx qy, pix (drawRow b x0 py cv).fb qx qy =
      (pix cv.fb qx qy ^^ decide (∃ c : Fin 8, b.getLsbD (7 - c.val) = true ∧ qx = column (x0 + c.val) ∧ qy = py))) ∧
    (drawRow b x0 py cv).coll =
      (cv.coll || decide (∃ c : Fin 8, b.getLsbD (7 - c.val) = true ∧ pix cv.fb (column (x0 + c.val)) py = true)) := by
  have hm : ∀ c, c ∈ [0, 1, 2, 3, 4, 5, 6, 7] ↔ c < 8 := by
    intro c
    simp only [List.mem_cons, List.not_mem_nil, or_false]
    omega
  have hf : ∀ p : Nat → Prop, (∃ c ∈ [0, 1, 2, 3, 4, 5, 6, 7], p c) ↔ ∃ c : Fin 8, p c.val := fun p =>
    ⟨fun ⟨c, h, hp⟩ => ⟨⟨c, (hm c).1 h⟩, hp⟩, fun ⟨c, hp⟩ => ⟨c.val, (hm c.val).2 c.isLt, hp⟩⟩
  obtain ⟨h1, h2⟩ := foldl_drawBit b x0 py [0, 1, 2, 3, 4, 5, 6, 7] (by decide) (fun c hc => (hm c).1 hc) cv
  refine ⟨fun qx qy => (h1 qx qy).trans ?_, h2.trans ?_⟩
  · rw [decide_eq_decide.2 (hf fun c => b.getLsbD (7 - c) = true ∧ qx = column (x0 + c) ∧ qy = py)]
  · rw [decide_eq_decide.2 (hf fun c => b.getLsbD (7 - c) = true ∧ pix cv.fb (column (x0 + c)) py = true)]

end Sys2Proof.Machine
end

