-- ==== Sys2Proof/Laws/Memory.lean ====
section
/-! SUPPORT. What the memory operations do: which address a write changes, that every operation keeps the canonical form, what
a block read and a block write are byte by byte. -/

namespace Sys2Proof.Machine

/-! ### Which addresses exist -/

theorem Config.memSize_ge (c : Config) : minMemSize ≤ c.memSize := Nat.le_add_left _ _

theorem Config.memSize_le (c : Config) : c.memSize ≤ 0x1000 := by
  have := c.memExtra.isLt
  simp only [Config.memSize, minMemSize]
  omega

theorem hasAddr_iff (c : Config) (a : Nat) : hasAddr c a = true ↔ a < c.memSize := by
  have := Config.memSize_ge c
  simp only [hasAddr, Bool.or_eq_true, decide_eq_true_eq]
  omega

theorem hasAddr_eq_false_iff (c : Config) (a : Nat) : hasAddr c a = false ↔ c.memSize ≤ a := by
  rw [← Bool.not_eq_true, hasAddr_iff]
  omega

theorem blockFits_iff (c : Config) (a n : Nat) : blockFits c a n = true ↔ n = 0 ∨ a + n ≤ c.memSize := by
  simp only [blockFits, Bool.or_eq_true, beq_iff_eq, hasAddr_iff]
  omega

/-! ### One cell -/

@[simp] theorem Memory.read_nil (c : Config) (a : Nat) : Memory.read c [] a = unwritten c a := rfl

theorem Memory.read_cons (c : Config) (k : Nat) (v : Byte) (rest : Memory) (a : Nat) :
    Memory.read c ((k, v) :: rest) a = if k = a then v else Memory.read c rest a := by
  by_cases h : k = a <;> simp [Memory.read, Memory.lookup, h]

theorem Memory.wfFrom_mono (c : Config) {lo lo' : Nat} (h : lo ≤ lo') {m : Memory} (hm : Memory.wfFrom c lo' m = true) :
    Memory.wfFrom c lo m = true := by
  cases m with
  | nil => rfl
  | cons e rest =>
    obtain ⟨k, v⟩ := e
    simp only [Memory.wfFrom, Bool.and_eq_true, decide_eq_true_eq] at hm ⊢
    exact ⟨⟨⟨by omega, hm.1.1.2⟩, hm.1.2⟩, hm.2⟩

/-- Below its first address a canonical memory holds its reset content. -/
theorem Memory.read_below (c : Config) {lo a : Nat} (h : a < lo) {m : Memory} (hm : Memory.wfFrom c lo m = true) :
    Memory.read c m a = unwritten c a := by
  induction m generalizing lo with
  | nil => rfl
  | cons e rest ih =>
    obtain ⟨k, v⟩ := e
    simp only [Memory.wfFrom, Bool.and_eq_true, decide_eq_true_eq] at hm
    rw [Memory.read_cons, if_neg (by omega), ih (by omega) hm.2]

/-- `Memory.cons` is a cell in front, whatever it lists. -/
theorem Memory.read_cons' (c : Config) (a b : Nat) (v : Byte) {m : Memory} (hm : Memory.read c m a = unwritten c a) :
    Memory.read c (Memory.cons c a v m) b = if b = a then v else Memory.read c m b := by
  unfold Memory.cons
  split
  · split <;> simp_all
  · rw [Memory.read_cons]
    simp only [eq_comm]

theorem Memory.wfFrom_cons (c : Config) (a : Nat) (v : Byte) {lo : Nat} {m : Memory} (hlo : lo ≤ a)
    (ha : a < c.memSize) (hm : Memory.wfFrom c (a + 1) m = true) : Memory.wfFrom c lo (Memory.cons c a v m) = true := by
  unfold Memory.cons
  split
  · exact Memory.wfFrom_mono c (by omega) hm
  · simp_all [Memory.wfFrom, hasAddr_iff]

/-- A write changes the byte at its own address and no other, and keeps the canonical form. -/
theorem Memory.write_spec (c : Config) (a : Nat) (v : Byte) (ha : a < c.memSize) {lo : Nat} (hlo : lo ≤ a) {m : Memory}
    (hm : Memory.wfFrom c lo m = true) :
    Memory.wfFrom c lo (m.write c a v) = true ∧
      ∀ b, Memory.read c (m.write c a v) b = if b = a then v else Memory.read c m b := by
  induction m generalizing lo with
  | nil =>
    exact ⟨Memory.wfFrom_cons c a v hlo ha rfl, fun b => Memory.read_cons' c a b v rfl⟩
  | cons e rest ih =>
    obtain ⟨k, w⟩ := e
    have hm' := hm
    simp only [Memory.wfFrom, Bool.and_eq_true, decide_eq_true_eq] at hm
    simp only [Memory.write]
    split
    · rename_i hak
      have hup : Memory.wfFrom c (a + 1) ((k, w) :: rest) = true := by
        simp only [Memory.wfFrom, Bool.and_eq_true, decide_eq_true_eq]
        exact ⟨⟨⟨by omega, hm.1.1.2⟩, hm.1.2⟩, hm.2⟩
      exact ⟨Memory.wfFrom_cons c a v hlo ha hup,
        fun b => Memory.read_cons' c a b v (Memory.read_below c (by omega) hup)⟩
    · split
      · rename_i _ hak
        subst hak
        refine ⟨Memory.wfFrom_cons c a v hlo ha hm.2, fun b => ?_⟩
        rw [Memory.read_cons' c a b v (Memory.read_below c (by omega) hm.2), Memory.read_cons]
        by_cases hb : b = a
        · simp [hb]
        · rw [if_neg hb, if_neg hb, if_neg (Ne.symm hb)]
      · rename_i h1 h2
        have := ih (lo := k + 1) (by omega) hm.2
        refine ⟨?_, fun b => ?_⟩
        · simp only [Memory.wfFrom, Bool.and_eq_true, decide_eq_true_eq]
          exact ⟨hm.1, this.1⟩
        · rw [Memory.read_cons, Memory.read_cons, this.2]
          split <;> split <;> simp_all

theorem Memory.write_wf (c : Config) {a : Nat} (ha : a < c.memSize) (v : Byte) {m : Memory} (hm : m.wf c = true) :
    (m.write c a v).wf c = true := (Memory.write_spec c a v ha (Nat.zero_le a) hm).1

theorem Memory.read_write (c : Config) {a : Nat} (ha : a < c.memSize) (v : Byte) {m : Memory} (hm : m.wf c = true) (b : Nat) :
    Memory.read c (m.write c a v) b = if b = a then v else Memory.read c m b :=
  (Memory.write_spec c a v ha (Nat.zero_le a) hm).2 b

/-- The reset memory is canonical. -/
theorem Memory.nil_wf (c : Config) : Memory.wf c [] = true := rfl

/-! ### Blocks -/

theorem Memory.writeBlock_wf (c : Config) {a : Nat} {bs : List Byte} (h : a + bs.length ≤ c.memSize) {m : Memory}
    (hm : m.wf c = true) : (m.writeBlock c a bs).wf c = true := by
  induction bs generalizing a m with
  | nil => exact hm
  | cons b bs ih =>
    simp only [List.length_cons] at h
    exact ih (by omega) (Memory.write_wf c (by omega) b hm)

/-- What a block write leaves at an address: the block's byte there, or what the address held. -/
theorem Memory.read_writeBlock (c : Config) {a : Nat} {bs : List Byte} (h : a + bs.length ≤ c.memSize) {m : Memory}
    (hm : m.wf c = true) (b : Nat) :
    Memory.read c (m.writeBlock c a bs) b =
      if h : a ≤ b ∧ b < a + bs.length then bs[b - a]'(by omega) else Memory.read c m b := by
  induction bs generalizing a m with
  | nil => rw [dif_neg (by simp)]; rfl
  | cons v bs ih =>
    simp only [List.length_cons] at h ⊢
    rw [Memory.writeBlock, ih (by omega) (Memory.write_wf c (by omega) v hm), Memory.read_write c (by omega) v hm]
    by_cases h1 : a + 1 ≤ b ∧ b < a + 1 + bs.length
    · obtain ⟨k, rfl⟩ : ∃ k, b = a + 1 + k := ⟨b - (a + 1), by omega⟩
      rw [dif_pos h1, dif_pos (by omega)]
      simp [show a + 1 + k - a = k + 1 by omega]
    · rw [dif_neg h1]
      by_cases h2 : b = a
      · subst h2
        simp
      · rw [if_neg h2, dif_neg (by omega)]

@[simp] theorem Memory.length_readBlock (c : Config) (m : Memory) (a n : Nat) : (Memory.readBlock c m a n).length = n := by
  induction n generalizing a with
  | zero => rfl
  | succ n ih => simp [Memory.readBlock, ih]

theorem Memory.getElem_readBlock (c : Config) (m : Memory) (a n k : Nat) (h : k < (Memory.readBlock c m a n).length) :
    (Memory.readBlock c m a n)[k] = m.read c (a + k) := by
  induction n generalizing a k with
  | zero => simp [Memory.readBlock] at h
  | succ n ih =>
    cases k with
    | zero => rfl
    | succ k =>
      simp only [Memory.readBlock, List.getElem_cons_succ]
      rw [ih]
      congr 1
      omega

end Sys2Proof.Machine
end

