-- ==== Sys2Proof/Laws/State.lean ====
section
/-! SUPPORT. What each update of the state leaves in each field, one lemma a field and update, so that no later proof unfolds
a record update. -/

namespace Sys2Proof.Machine

/-! ### setReg -/

@[simp] theorem State.setReg_v (s : State) (x : Reg) (b : Byte) : (s.setReg x b).v = s.v.set x.val b := rfl
@[simp] theorem State.setReg_i (s : State) (x : Reg) (b : Byte) : (s.setReg x b).i = s.i := rfl
@[simp] theorem State.setReg_pc (s : State) (x : Reg) (b : Byte) : (s.setReg x b).pc = s.pc := rfl
@[simp] theorem State.setReg_stack (s : State) (x : Reg) (b : Byte) : (s.setReg x b).stack = s.stack := rfl
@[simp] theorem State.setReg_sp (s : State) (x : Reg) (b : Byte) : (s.setReg x b).sp = s.sp := rfl
@[simp] theorem State.setReg_keys (s : State) (x : Reg) (b : Byte) : (s.setReg x b).keys = s.keys := rfl
@[simp] theorem State.setReg_dt (s : State) (x : Reg) (b : Byte) : (s.setReg x b).dt = s.dt := rfl
@[simp] theorem State.setReg_st (s : State) (x : Reg) (b : Byte) : (s.setReg x b).st = s.st := rfl
@[simp] theorem State.setReg_tone (s : State) (x : Reg) (b : Byte) : (s.setReg x b).tone = s.tone := rfl
@[simp] theorem State.setReg_fb (s : State) (x : Reg) (b : Byte) : (s.setReg x b).fb = s.fb := rfl
@[simp] theorem State.setReg_mem (s : State) (x : Reg) (b : Byte) : (s.setReg x b).mem = s.mem := rfl
@[simp] theorem State.setReg_budget (s : State) (x : Reg) (b : Byte) : (s.setReg x b).budget = s.budget := rfl
@[simp] theorem State.setReg_phase (s : State) (x : Reg) (b : Byte) : (s.setReg x b).phase = s.phase := rfl
@[simp] theorem State.setReg_cfg (s : State) (x : Reg) (b : Byte) : (s.setReg x b).cfg = s.cfg := rfl
@[simp] theorem State.setReg_draws (s : State) (x : Reg) (b : Byte) : (s.setReg x b).draws = s.draws := rfl
@[simp] theorem State.setReg_calls (s : State) (x : Reg) (b : Byte) : (s.setReg x b).calls = s.calls := rfl
@[simp] theorem State.setReg_replies (s : State) (x : Reg) (b : Byte) : (s.setReg x b).replies = s.replies := rfl

/-! ### setPc -/

@[simp] theorem State.setPc_v (s : State) (a : Word) : (s.setPc a).v = s.v := rfl
@[simp] theorem State.setPc_i (s : State) (a : Word) : (s.setPc a).i = s.i := rfl
@[simp] theorem State.setPc_pc (s : State) (a : Word) : (s.setPc a).pc = a := rfl
@[simp] theorem State.setPc_stack (s : State) (a : Word) : (s.setPc a).stack = s.stack := rfl
@[simp] theorem State.setPc_sp (s : State) (a : Word) : (s.setPc a).sp = s.sp := rfl
@[simp] theorem State.setPc_keys (s : State) (a : Word) : (s.setPc a).keys = s.keys := rfl
@[simp] theorem State.setPc_dt (s : State) (a : Word) : (s.setPc a).dt = s.dt := rfl
@[simp] theorem State.setPc_st (s : State) (a : Word) : (s.setPc a).st = s.st := rfl
@[simp] theorem State.setPc_tone (s : State) (a : Word) : (s.setPc a).tone = s.tone := rfl
@[simp] theorem State.setPc_fb (s : State) (a : Word) : (s.setPc a).fb = s.fb := rfl
@[simp] theorem State.setPc_mem (s : State) (a : Word) : (s.setPc a).mem = s.mem := rfl
@[simp] theorem State.setPc_budget (s : State) (a : Word) : (s.setPc a).budget = s.budget := rfl
@[simp] theorem State.setPc_phase (s : State) (a : Word) : (s.setPc a).phase = s.phase := rfl
@[simp] theorem State.setPc_cfg (s : State) (a : Word) : (s.setPc a).cfg = s.cfg := rfl
@[simp] theorem State.setPc_draws (s : State) (a : Word) : (s.setPc a).draws = s.draws := rfl
@[simp] theorem State.setPc_calls (s : State) (a : Word) : (s.setPc a).calls = s.calls := rfl
@[simp] theorem State.setPc_replies (s : State) (a : Word) : (s.setPc a).replies = s.replies := rfl

/-! ### advance -/

@[simp] theorem State.advance_v (s : State) : s.advance.v = s.v := rfl
@[simp] theorem State.advance_i (s : State) : s.advance.i = s.i := rfl
@[simp] theorem State.advance_pc (s : State) : s.advance.pc = s.pc + 2 := rfl
@[simp] theorem State.advance_stack (s : State) : s.advance.stack = s.stack := rfl
@[simp] theorem State.advance_sp (s : State) : s.advance.sp = s.sp := rfl
@[simp] theorem State.advance_keys (s : State) : s.advance.keys = s.keys := rfl
@[simp] theorem State.advance_dt (s : State) : s.advance.dt = s.dt := rfl
@[simp] theorem State.advance_st (s : State) : s.advance.st = s.st := rfl
@[simp] theorem State.advance_tone (s : State) : s.advance.tone = s.tone := rfl
@[simp] theorem State.advance_fb (s : State) : s.advance.fb = s.fb := rfl
@[simp] theorem State.advance_mem (s : State) : s.advance.mem = s.mem := rfl
@[simp] theorem State.advance_budget (s : State) : s.advance.budget = s.budget := rfl
@[simp] theorem State.advance_phase (s : State) : s.advance.phase = s.phase := rfl
@[simp] theorem State.advance_cfg (s : State) : s.advance.cfg = s.cfg := rfl
@[simp] theorem State.advance_draws (s : State) : s.advance.draws = s.draws := rfl
@[simp] theorem State.advance_calls (s : State) : s.advance.calls = s.calls := rfl
@[simp] theorem State.advance_replies (s : State) : s.advance.replies = s.replies := rfl

/-! ### skipIf -/

@[simp] theorem State.skipIf_v (s : State) (c : Bool) : (s.skipIf c).v = s.v := rfl
@[simp] theorem State.skipIf_i (s : State) (c : Bool) : (s.skipIf c).i = s.i := rfl
@[simp] theorem State.skipIf_pc (s : State) (c : Bool) : (s.skipIf c).pc = if c then s.pc + 4 else s.pc + 2 := rfl
@[simp] theorem State.skipIf_stack (s : State) (c : Bool) : (s.skipIf c).stack = s.stack := rfl
@[simp] theorem State.skipIf_sp (s : State) (c : Bool) : (s.skipIf c).sp = s.sp := rfl
@[simp] theorem State.skipIf_keys (s : State) (c : Bool) : (s.skipIf c).keys = s.keys := rfl
@[simp] theorem State.skipIf_dt (s : State) (c : Bool) : (s.skipIf c).dt = s.dt := rfl
@[simp] theorem State.skipIf_st (s : State) (c : Bool) : (s.skipIf c).st = s.st := rfl
@[simp] theorem State.skipIf_tone (s : State) (c : Bool) : (s.skipIf c).tone = s.tone := rfl
@[simp] theorem State.skipIf_fb (s : State) (c : Bool) : (s.skipIf c).fb = s.fb := rfl
@[simp] theorem State.skipIf_mem (s : State) (c : Bool) : (s.skipIf c).mem = s.mem := rfl
@[simp] theorem State.skipIf_budget (s : State) (c : Bool) : (s.skipIf c).budget = s.budget := rfl
@[simp] theorem State.skipIf_phase (s : State) (c : Bool) : (s.skipIf c).phase = s.phase := rfl
@[simp] theorem State.skipIf_cfg (s : State) (c : Bool) : (s.skipIf c).cfg = s.cfg := rfl
@[simp] theorem State.skipIf_draws (s : State) (c : Bool) : (s.skipIf c).draws = s.draws := rfl
@[simp] theorem State.skipIf_calls (s : State) (c : Bool) : (s.skipIf c).calls = s.calls := rfl
@[simp] theorem State.skipIf_replies (s : State) (c : Bool) : (s.skipIf c).replies = s.replies := rfl

/-! ### setFlag -/

@[simp] theorem State.setFlag_v (s : State) (f : Bool) : (s.setFlag f).v = s.v.set vf.val (flagByte f) := rfl
@[simp] theorem State.setFlag_i (s : State) (f : Bool) : (s.setFlag f).i = s.i := rfl
@[simp] theorem State.setFlag_pc (s : State) (f : Bool) : (s.setFlag f).pc = s.pc := rfl
@[simp] theorem State.setFlag_stack (s : State) (f : Bool) : (s.setFlag f).stack = s.stack := rfl
@[simp] theorem State.setFlag_sp (s : State) (f : Bool) : (s.setFlag f).sp = s.sp := rfl
@[simp] theorem State.setFlag_keys (s : State) (f : Bool) : (s.setFlag f).keys = s.keys := rfl
@[simp] theorem State.setFlag_dt (s : State) (f : Bool) : (s.setFlag f).dt = s.dt := rfl
@[simp] theorem State.setFlag_st (s : State) (f : Bool) : (s.setFlag f).st = s.st := rfl
@[simp] theorem State.setFlag_tone (s : State) (f : Bool) : (s.setFlag f).tone = s.tone := rfl
@[simp] theorem State.setFlag_fb (s : State) (f : Bool) : (s.setFlag f).fb = s.fb := rfl
@[simp] theorem State.setFlag_mem (s : State) (f : Bool) : (s.setFlag f).mem = s.mem := rfl
@[simp] theorem State.setFlag_budget (s : State) (f : Bool) : (s.setFlag f).budget = s.budget := rfl
@[simp] theorem State.setFlag_phase (s : State) (f : Bool) : (s.setFlag f).phase = s.phase := rfl
@[simp] theorem State.setFlag_cfg (s : State) (f : Bool) : (s.setFlag f).cfg = s.cfg := rfl
@[simp] theorem State.setFlag_draws (s : State) (f : Bool) : (s.setFlag f).draws = s.draws := rfl
@[simp] theorem State.setFlag_calls (s : State) (f : Bool) : (s.setFlag f).calls = s.calls := rfl
@[simp] theorem State.setFlag_replies (s : State) (f : Bool) : (s.setFlag f).replies = s.replies := rfl

/-! ### setRegFlag -/

@[simp] theorem State.setRegFlag_v (s : State) (x : Reg) (r : Byte) (f : Bool) : (s.setRegFlag x r f).v = (s.v.set x.val r).set vf.val (flagByte f) := rfl
@[simp] theorem State.setRegFlag_i (s : State) (x : Reg) (r : Byte) (f : Bool) : (s.setRegFlag x r f).i = s.i := rfl
@[simp] theorem State.setRegFlag_pc (s : State) (x : Reg) (r : Byte) (f : Bool) : (s.setRegFlag x r f).pc = s.pc := rfl
@[simp] theorem State.setRegFlag_stack (s : State) (x : Reg) (r : Byte) (f : Bool) : (s.setRegFlag x r f).stack = s.stack := rfl
@[simp] theorem State.setRegFlag_sp (s : State) (x : Reg) (r : Byte) (f : Bool) : (s.setRegFlag x r f).sp = s.sp := rfl
@[simp] theorem State.setRegFlag_keys (s : State) (x : Reg) (r : Byte) (f : Bool) : (s.setRegFlag x r f).keys = s.keys := rfl
@[simp] theorem State.setRegFlag_dt (s : State) (x : Reg) (r : Byte) (f : Bool) : (s.setRegFlag x r f).dt = s.dt := rfl
@[simp] theorem State.setRegFlag_st (s : State) (x : Reg) (r : Byte) (f : Bool) : (s.setRegFlag x r f).st = s.st := rfl
@[simp] theorem State.setRegFlag_tone (s : State) (x : Reg) (r : Byte) (f : Bool) : (s.setRegFlag x r f).tone = s.tone := rfl
@[simp] theorem State.setRegFlag_fb (s : State) (x : Reg) (r : Byte) (f : Bool) : (s.setRegFlag x r f).fb = s.fb := rfl
@[simp] theorem State.setRegFlag_mem (s : State) (x : Reg) (r : Byte) (f : Bool) : (s.setRegFlag x r f).mem = s.mem := rfl
@[simp] theorem State.setRegFlag_budget (s : State) (x : Reg) (r : Byte) (f : Bool) : (s.setRegFlag x r f).budget = s.budget := rfl
@[simp] theorem State.setRegFlag_phase (s : State) (x : Reg) (r : Byte) (f : Bool) : (s.setRegFlag x r f).phase = s.phase := rfl
@[simp] theorem State.setRegFlag_cfg (s : State) (x : Reg) (r : Byte) (f : Bool) : (s.setRegFlag x r f).cfg = s.cfg := rfl
@[simp] theorem State.setRegFlag_draws (s : State) (x : Reg) (r : Byte) (f : Bool) : (s.setRegFlag x r f).draws = s.draws := rfl
@[simp] theorem State.setRegFlag_calls (s : State) (x : Reg) (r : Byte) (f : Bool) : (s.setRegFlag x r f).calls = s.calls := rfl
@[simp] theorem State.setRegFlag_replies (s : State) (x : Reg) (r : Byte) (f : Bool) : (s.setRegFlag x r f).replies = s.replies := rfl

/-! ### writeMem -/

@[simp] theorem State.writeMem_v (s : State) (a : Nat) (bs : List Byte) : (s.writeMem a bs).v = s.v := rfl
@[simp] theorem State.writeMem_i (s : State) (a : Nat) (bs : List Byte) : (s.writeMem a bs).i = s.i := rfl
@[simp] theorem State.writeMem_pc (s : State) (a : Nat) (bs : List Byte) : (s.writeMem a bs).pc = s.pc := rfl
@[simp] theorem State.writeMem_stack (s : State) (a : Nat) (bs : List Byte) : (s.writeMem a bs).stack = s.stack := rfl
@[simp] theorem State.writeMem_sp (s : State) (a : Nat) (bs : List Byte) : (s.writeMem a bs).sp = s.sp := rfl
@[simp] theorem State.writeMem_keys (s : State) (a : Nat) (bs : List Byte) : (s.writeMem a bs).keys = s.keys := rfl
@[simp] theorem State.writeMem_dt (s : State) (a : Nat) (bs : List Byte) : (s.writeMem a bs).dt = s.dt := rfl
@[simp] theorem State.writeMem_st (s : State) (a : Nat) (bs : List Byte) : (s.writeMem a bs).st = s.st := rfl
@[simp] theorem State.writeMem_tone (s : State) (a : Nat) (bs : List Byte) : (s.writeMem a bs).tone = s.tone := rfl
@[simp] theorem State.writeMem_fb (s : State) (a : Nat) (bs : List Byte) : (s.writeMem a bs).fb = s.fb := rfl
@[simp] theorem State.writeMem_mem (s : State) (a : Nat) (bs : List Byte) : (s.writeMem a bs).mem = s.mem.writeBlock s.cfg a bs := rfl
@[simp] theorem State.writeMem_budget (s : State) (a : Nat) (bs : List Byte) : (s.writeMem a bs).budget = s.budget := rfl
@[simp] theorem State.writeMem_phase (s : State) (a : Nat) (bs : List Byte) : (s.writeMem a bs).phase = s.phase := rfl
@[simp] theorem State.writeMem_cfg (s : State) (a : Nat) (bs : List Byte) : (s.writeMem a bs).cfg = s.cfg := rfl
@[simp] theorem State.writeMem_draws (s : State) (a : Nat) (bs : List Byte) : (s.writeMem a bs).draws = s.draws := rfl
@[simp] theorem State.writeMem_calls (s : State) (a : Nat) (bs : List Byte) : (s.writeMem a bs).calls = s.calls := rfl
@[simp] theorem State.writeMem_replies (s : State) (a : Nat) (bs : List Byte) : (s.writeMem a bs).replies = s.replies := rfl

/-! ### writeAtI -/

@[simp] theorem State.writeAtI_v (s : State) (bs : List Byte) : (s.writeAtI bs).v = s.v := rfl
@[simp] theorem State.writeAtI_i (s : State) (bs : List Byte) : (s.writeAtI bs).i = s.i := rfl
@[simp] theorem State.writeAtI_pc (s : State) (bs : List Byte) : (s.writeAtI bs).pc = s.pc := rfl
@[simp] theorem State.writeAtI_stack (s : State) (bs : List Byte) : (s.writeAtI bs).stack = s.stack := rfl
@[simp] theorem State.writeAtI_sp (s : State) (bs : List Byte) : (s.writeAtI bs).sp = s.sp := rfl
@[simp] theorem State.writeAtI_keys (s : State) (bs : List Byte) : (s.writeAtI bs).keys = s.keys := rfl
@[simp] theorem State.writeAtI_dt (s : State) (bs : List Byte) : (s.writeAtI bs).dt = s.dt := rfl
@[simp] theorem State.writeAtI_st (s : State) (bs : List Byte) : (s.writeAtI bs).st = s.st := rfl
@[simp] theorem State.writeAtI_tone (s : State) (bs : List Byte) : (s.writeAtI bs).tone = s.tone := rfl
@[simp] theorem State.writeAtI_fb (s : State) (bs : List Byte) : (s.writeAtI bs).fb = s.fb := rfl
@[simp] theorem State.writeAtI_mem (s : State) (bs : List Byte) : (s.writeAtI bs).mem = s.mem.writeBlock s.cfg (s.effAddr 0) bs := rfl
@[simp] theorem State.writeAtI_budget (s : State) (bs : List Byte) : (s.writeAtI bs).budget = s.budget := rfl
@[simp] theorem State.writeAtI_phase (s : State) (bs : List Byte) : (s.writeAtI bs).phase = s.phase := rfl
@[simp] theorem State.writeAtI_cfg (s : State) (bs : List Byte) : (s.writeAtI bs).cfg = s.cfg := rfl
@[simp] theorem State.writeAtI_draws (s : State) (bs : List Byte) : (s.writeAtI bs).draws = s.draws := rfl
@[simp] theorem State.writeAtI_calls (s : State) (bs : List Byte) : (s.writeAtI bs).calls = s.calls := rfl
@[simp] theorem State.writeAtI_replies (s : State) (bs : List Byte) : (s.writeAtI bs).replies = s.replies := rfl

/-! ### loadBlock -/

@[simp] theorem State.loadBlock_v (s : State) (x : Reg) : (s.loadBlock x).v = tabulate16 fun k => if k ≤ x then s.readMem (s.effAddr k.val) else s.reg k := rfl
@[simp] theorem State.loadBlock_i (s : State) (x : Reg) : (s.loadBlock x).i = s.i := rfl
@[simp] theorem State.loadBlock_pc (s : State) (x : Reg) : (s.loadBlock x).pc = s.pc := rfl
@[simp] theorem State.loadBlock_stack (s : State) (x : Reg) : (s.loadBlock x).stack = s.stack := rfl
@[simp] theorem State.loadBlock_sp (s : State) (x : Reg) : (s.loadBlock x).sp = s.sp := rfl
@[simp] theorem State.loadBlock_keys (s : State) (x : Reg) : (s.loadBlock x).keys = s.keys := rfl
@[simp] theorem State.loadBlock_dt (s : State) (x : Reg) : (s.loadBlock x).dt = s.dt := rfl
@[simp] theorem State.loadBlock_st (s : State) (x : Reg) : (s.loadBlock x).st = s.st := rfl
@[simp] theorem State.loadBlock_tone (s : State) (x : Reg) : (s.loadBlock x).tone = s.tone := rfl
@[simp] theorem State.loadBlock_fb (s : State) (x : Reg) : (s.loadBlock x).fb = s.fb := rfl
@[simp] theorem State.loadBlock_mem (s : State) (x : Reg) : (s.loadBlock x).mem = s.mem := rfl
@[simp] theorem State.loadBlock_budget (s : State) (x : Reg) : (s.loadBlock x).budget = s.budget := rfl
@[simp] theorem State.loadBlock_phase (s : State) (x : Reg) : (s.loadBlock x).phase = s.phase := rfl
@[simp] theorem State.loadBlock_cfg (s : State) (x : Reg) : (s.loadBlock x).cfg = s.cfg := rfl
@[simp] theorem State.loadBlock_draws (s : State) (x : Reg) : (s.loadBlock x).draws = s.draws := rfl
@[simp] theorem State.loadBlock_calls (s : State) (x : Reg) : (s.loadBlock x).calls = s.calls := rfl
@[simp] theorem State.loadBlock_replies (s : State) (x : Reg) : (s.loadBlock x).replies = s.replies := rfl

/-! ### setCanvas -/

@[simp] theorem State.setCanvas_v (s : State) (cv : Canvas) : (s.setCanvas cv).v = s.v.set vf.val (flagByte cv.coll) := rfl
@[simp] theorem State.setCanvas_i (s : State) (cv : Canvas) : (s.setCanvas cv).i = s.i := rfl
@[simp] theorem State.setCanvas_pc (s : State) (cv : Canvas) : (s.setCanvas cv).pc = s.pc := rfl
@[simp] theorem State.setCanvas_stack (s : State) (cv : Canvas) : (s.setCanvas cv).stack = s.stack := rfl
@[simp] theorem State.setCanvas_sp (s : State) (cv : Canvas) : (s.setCanvas cv).sp = s.sp := rfl
@[simp] theorem State.setCanvas_keys (s : State) (cv : Canvas) : (s.setCanvas cv).keys = s.keys := rfl
@[simp] theorem State.setCanvas_dt (s : State) (cv : Canvas) : (s.setCanvas cv).dt = s.dt := rfl
@[simp] theorem State.setCanvas_st (s : State) (cv : Canvas) : (s.setCanvas cv).st = s.st := rfl
@[simp] theorem State.setCanvas_tone (s : State) (cv : Canvas) : (s.setCanvas cv).tone = s.tone := rfl
@[simp] theorem State.setCanvas_fb (s : State) (cv : Canvas) : (s.setCanvas cv).fb = cv.fb := rfl
@[simp] theorem State.setCanvas_mem (s : State) (cv : Canvas) : (s.setCanvas cv).mem = s.mem := rfl
@[simp] theorem State.setCanvas_budget (s : State) (cv : Canvas) : (s.setCanvas cv).budget = s.budget := rfl
@[simp] theorem State.setCanvas_phase (s : State) (cv : Canvas) : (s.setCanvas cv).phase = s.phase := rfl
@[simp] theorem State.setCanvas_cfg (s : State) (cv : Canvas) : (s.setCanvas cv).cfg = s.cfg := rfl
@[simp] theorem State.setCanvas_draws (s : State) (cv : Canvas) : (s.setCanvas cv).draws = s.draws := rfl
@[simp] theorem State.setCanvas_calls (s : State) (cv : Canvas) : (s.setCanvas cv).calls = s.calls := rfl
@[simp] theorem State.setCanvas_replies (s : State) (cv : Canvas) : (s.setCanvas cv).replies = s.replies := rfl

/-! ### random -/

@[simp] theorem State.random_v (s : State) (x : Reg) (kk r : Byte) : (s.random x kk r).v = s.v.set x.val (r &&& kk) := rfl
@[simp] theorem State.random_i (s : State) (x : Reg) (kk r : Byte) : (s.random x kk r).i = s.i := rfl
@[simp] theorem State.random_pc (s : State) (x : Reg) (kk r : Byte) : (s.random x kk r).pc = s.pc + 2 := rfl
@[simp] theorem State.random_stack (s : State) (x : Reg) (kk r : Byte) : (s.random x kk r).stack = s.stack := rfl
@[simp] theorem State.random_sp (s : State) (x : Reg) (kk r : Byte) : (s.random x kk r).sp = s.sp := rfl
@[simp] theorem State.random_keys (s : State) (x : Reg) (kk r : Byte) : (s.random x kk r).keys = s.keys := rfl
@[simp] theorem State.random_dt (s : State) (x : Reg) (kk r : Byte) : (s.random x kk r).dt = s.dt := rfl
@[simp] theorem State.random_st (s : State) (x : Reg) (kk r : Byte) : (s.random x kk r).st = s.st := rfl
@[simp] theorem State.random_tone (s : State) (x : Reg) (kk r : Byte) : (s.random x kk r).tone = s.tone := rfl
@[simp] theorem State.random_fb (s : State) (x : Reg) (kk r : Byte) : (s.random x kk r).fb = s.fb := rfl
@[simp] theorem State.random_mem (s : State) (x : Reg) (kk r : Byte) : (s.random x kk r).mem = s.mem := rfl
@[simp] theorem State.random_budget (s : State) (x : Reg) (kk r : Byte) : (s.random x kk r).budget = s.budget := rfl
@[simp] theorem State.random_phase (s : State) (x : Reg) (kk r : Byte) : (s.random x kk r).phase = s.phase := rfl
@[simp] theorem State.random_cfg (s : State) (x : Reg) (kk r : Byte) : (s.random x kk r).cfg = s.cfg := rfl
@[simp] theorem State.random_draws (s : State) (x : Reg) (kk r : Byte) : (s.random x kk r).draws = s.draws := rfl
@[simp] theorem State.random_calls (s : State) (x : Reg) (kk r : Byte) : (s.random x kk r).calls = s.calls := rfl
@[simp] theorem State.random_replies (s : State) (x : Reg) (kk r : Byte) : (s.random x kk r).replies = s.replies := rfl

/-! ### takeError -/

@[simp] theorem State.takeError_v (s : State) (e : FatalError) : (s.takeError e).v = s.v := rfl
@[simp] theorem State.takeError_i (s : State) (e : FatalError) : (s.takeError e).i = s.i := rfl
@[simp] theorem State.takeError_pc (s : State) (e : FatalError) : (s.takeError e).pc = s.pc := rfl
@[simp] theorem State.takeError_stack (s : State) (e : FatalError) : (s.takeError e).stack = s.stack := rfl
@[simp] theorem State.takeError_sp (s : State) (e : FatalError) : (s.takeError e).sp = s.sp := rfl
@[simp] theorem State.takeError_keys (s : State) (e : FatalError) : (s.takeError e).keys = s.keys := rfl
@[simp] theorem State.takeError_dt (s : State) (e : FatalError) : (s.takeError e).dt = s.dt := rfl
@[simp] theorem State.takeError_st (s : State) (e : FatalError) : (s.takeError e).st = s.st := rfl
@[simp] theorem State.takeError_tone (s : State) (e : FatalError) : (s.takeError e).tone = s.tone := rfl
@[simp] theorem State.takeError_fb (s : State) (e : FatalError) : (s.takeError e).fb = s.fb := rfl
@[simp] theorem State.takeError_mem (s : State) (e : FatalError) : (s.takeError e).mem = s.mem := rfl
@[simp] theorem State.takeError_budget (s : State) (e : FatalError) : (s.takeError e).budget = s.budget := rfl
@[simp] theorem State.takeError_phase (s : State) (e : FatalError) : (s.takeError e).phase = .idle := rfl
@[simp] theorem State.takeError_cfg (s : State) (e : FatalError) : (s.takeError e).cfg = s.cfg := rfl
@[simp] theorem State.takeError_draws (s : State) (e : FatalError) : (s.takeError e).draws = s.draws := rfl
@[simp] theorem State.takeError_calls (s : State) (e : FatalError) : (s.takeError e).calls = s.calls := rfl
@[simp] theorem State.takeError_replies (s : State) (e : FatalError) : (s.takeError e).replies = .cycleFailed e :: s.replies := rfl

/-! ### reply -/

@[simp] theorem State.reply_v (s : State) (r : Reply) : (s.reply r).v = s.v := rfl
@[simp] theorem State.reply_i (s : State) (r : Reply) : (s.reply r).i = s.i := rfl
@[simp] theorem State.reply_pc (s : State) (r : Reply) : (s.reply r).pc = s.pc := rfl
@[simp] theorem State.reply_stack (s : State) (r : Reply) : (s.reply r).stack = s.stack := rfl
@[simp] theorem State.reply_sp (s : State) (r : Reply) : (s.reply r).sp = s.sp := rfl
@[simp] theorem State.reply_keys (s : State) (r : Reply) : (s.reply r).keys = s.keys := rfl
@[simp] theorem State.reply_dt (s : State) (r : Reply) : (s.reply r).dt = s.dt := rfl
@[simp] theorem State.reply_st (s : State) (r : Reply) : (s.reply r).st = s.st := rfl
@[simp] theorem State.reply_tone (s : State) (r : Reply) : (s.reply r).tone = s.tone := rfl
@[simp] theorem State.reply_fb (s : State) (r : Reply) : (s.reply r).fb = s.fb := rfl
@[simp] theorem State.reply_mem (s : State) (r : Reply) : (s.reply r).mem = s.mem := rfl
@[simp] theorem State.reply_budget (s : State) (r : Reply) : (s.reply r).budget = s.budget := rfl
@[simp] theorem State.reply_phase (s : State) (r : Reply) : (s.reply r).phase = s.phase := rfl
@[simp] theorem State.reply_cfg (s : State) (r : Reply) : (s.reply r).cfg = s.cfg := rfl
@[simp] theorem State.reply_draws (s : State) (r : Reply) : (s.reply r).draws = s.draws := rfl
@[simp] theorem State.reply_calls (s : State) (r : Reply) : (s.reply r).calls = s.calls := rfl
@[simp] theorem State.reply_replies (s : State) (r : Reply) : (s.reply r).replies = r :: s.replies := rfl

/-! ### applyKeys -/

@[simp] theorem State.applyKeys_v (s : State) (k : BitVec 16) : (s.applyKeys k).v = s.v := rfl
@[simp] theorem State.applyKeys_i (s : State) (k : BitVec 16) : (s.applyKeys k).i = s.i := rfl
@[simp] theorem State.applyKeys_pc (s : State) (k : BitVec 16) : (s.applyKeys k).pc = s.pc := rfl
@[simp] theorem State.applyKeys_stack (s : State) (k : BitVec 16) : (s.applyKeys k).stack = s.stack := rfl
@[simp] theorem State.applyKeys_sp (s : State) (k : BitVec 16) : (s.applyKeys k).sp = s.sp := rfl
@[simp] theorem State.applyKeys_keys (s : State) (k : BitVec 16) : (s.applyKeys k).keys = keysOf k := rfl
@[simp] theorem State.applyKeys_dt (s : State) (k : BitVec 16) : (s.applyKeys k).dt = s.dt := rfl
@[simp] theorem State.applyKeys_st (s : State) (k : BitVec 16) : (s.applyKeys k).st = s.st := rfl
@[simp] theorem State.applyKeys_tone (s : State) (k : BitVec 16) : (s.applyKeys k).tone = s.tone := rfl
@[simp] theorem State.applyKeys_fb (s : State) (k : BitVec 16) : (s.applyKeys k).fb = s.fb := rfl
@[simp] theorem State.applyKeys_mem (s : State) (k : BitVec 16) : (s.applyKeys k).mem = s.mem := rfl
@[simp] theorem State.applyKeys_budget (s : State) (k : BitVec 16) : (s.applyKeys k).budget = s.budget := rfl
@[simp] theorem State.applyKeys_phase (s : State) (k : BitVec 16) : (s.applyKeys k).phase = s.phase := rfl
@[simp] theorem State.applyKeys_cfg (s : State) (k : BitVec 16) : (s.applyKeys k).cfg = s.cfg := rfl
@[simp] theorem State.applyKeys_draws (s : State) (k : BitVec 16) : (s.applyKeys k).draws = s.draws := rfl
@[simp] theorem State.applyKeys_calls (s : State) (k : BitVec 16) : (s.applyKeys k).calls = s.calls := rfl
@[simp] theorem State.applyKeys_replies (s : State) (k : BitVec 16) : (s.applyKeys k).replies = s.replies := rfl

/-! ### tickDelay -/

@[simp] theorem State.tickDelay_v (s : State) : s.tickDelay.v = s.v := rfl
@[simp] theorem State.tickDelay_i (s : State) : s.tickDelay.i = s.i := rfl
@[simp] theorem State.tickDelay_pc (s : State) : s.tickDelay.pc = s.pc := rfl
@[simp] theorem State.tickDelay_stack (s : State) : s.tickDelay.stack = s.stack := rfl
@[simp] theorem State.tickDelay_sp (s : State) : s.tickDelay.sp = s.sp := rfl
@[simp] theorem State.tickDelay_keys (s : State) : s.tickDelay.keys = s.keys := rfl
@[simp] theorem State.tickDelay_dt (s : State) : s.tickDelay.dt = tick s.dt := rfl
@[simp] theorem State.tickDelay_st (s : State) : s.tickDelay.st = s.st := rfl
@[simp] theorem State.tickDelay_tone (s : State) : s.tickDelay.tone = s.tone := rfl
@[simp] theorem State.tickDelay_fb (s : State) : s.tickDelay.fb = s.fb := rfl
@[simp] theorem State.tickDelay_mem (s : State) : s.tickDelay.mem = s.mem := rfl
@[simp] theorem State.tickDelay_budget (s : State) : s.tickDelay.budget = s.budget := rfl
@[simp] theorem State.tickDelay_phase (s : State) : s.tickDelay.phase = s.phase := rfl
@[simp] theorem State.tickDelay_cfg (s : State) : s.tickDelay.cfg = s.cfg := rfl
@[simp] theorem State.tickDelay_draws (s : State) : s.tickDelay.draws = s.draws := rfl
@[simp] theorem State.tickDelay_calls (s : State) : s.tickDelay.calls = s.calls := rfl
@[simp] theorem State.tickDelay_replies (s : State) : s.tickDelay.replies = s.replies := rfl

/-! ### tickSound -/

@[simp] theorem State.tickSound_v (s : State) : s.tickSound.v = s.v := rfl
@[simp] theorem State.tickSound_i (s : State) : s.tickSound.i = s.i := rfl
@[simp] theorem State.tickSound_pc (s : State) : s.tickSound.pc = s.pc := rfl
@[simp] theorem State.tickSound_stack (s : State) : s.tickSound.stack = s.stack := rfl
@[simp] theorem State.tickSound_sp (s : State) : s.tickSound.sp = s.sp := rfl
@[simp] theorem State.tickSound_keys (s : State) : s.tickSound.keys = s.keys := rfl
@[simp] theorem State.tickSound_dt (s : State) : s.tickSound.dt = s.dt := rfl
@[simp] theorem State.tickSound_st (s : State) : s.tickSound.st = tick s.st := rfl
@[simp] theorem State.tickSound_tone (s : State) : s.tickSound.tone = (s.tone || s.st == 1) := rfl
@[simp] theorem State.tickSound_fb (s : State) : s.tickSound.fb = s.fb := rfl
@[simp] theorem State.tickSound_mem (s : State) : s.tickSound.mem = s.mem := rfl
@[simp] theorem State.tickSound_budget (s : State) : s.tickSound.budget = s.budget := rfl
@[simp] theorem State.tickSound_phase (s : State) : s.tickSound.phase = s.phase := rfl
@[simp] theorem State.tickSound_cfg (s : State) : s.tickSound.cfg = s.cfg := rfl
@[simp] theorem State.tickSound_draws (s : State) : s.tickSound.draws = s.draws := rfl
@[simp] theorem State.tickSound_calls (s : State) : s.tickSound.calls = s.calls := rfl
@[simp] theorem State.tickSound_replies (s : State) : s.tickSound.replies = s.replies := rfl

/-! ### addFrame -/

@[simp] theorem State.addFrame_v (s : State) : s.addFrame.v = s.v := rfl
@[simp] theorem State.addFrame_i (s : State) : s.addFrame.i = s.i := rfl
@[simp] theorem State.addFrame_pc (s : State) : s.addFrame.pc = s.pc := rfl
@[simp] theorem State.addFrame_stack (s : State) : s.addFrame.stack = s.stack := rfl
@[simp] theorem State.addFrame_sp (s : State) : s.addFrame.sp = s.sp := rfl
@[simp] theorem State.addFrame_keys (s : State) : s.addFrame.keys = s.keys := rfl
@[simp] theorem State.addFrame_dt (s : State) : s.addFrame.dt = s.dt := rfl
@[simp] theorem State.addFrame_st (s : State) : s.addFrame.st = s.st := rfl
@[simp] theorem State.addFrame_tone (s : State) : s.addFrame.tone = s.tone := rfl
@[simp] theorem State.addFrame_fb (s : State) : s.addFrame.fb = s.fb := rfl
@[simp] theorem State.addFrame_mem (s : State) : s.addFrame.mem = s.mem := rfl
@[simp] theorem State.addFrame_budget (s : State) : s.addFrame.budget = s.budget + frameUs := rfl
@[simp] theorem State.addFrame_phase (s : State) : s.addFrame.phase = s.phase := rfl
@[simp] theorem State.addFrame_cfg (s : State) : s.addFrame.cfg = s.cfg := rfl
@[simp] theorem State.addFrame_draws (s : State) : s.addFrame.draws = s.draws := rfl
@[simp] theorem State.addFrame_calls (s : State) : s.addFrame.calls = s.calls := rfl
@[simp] theorem State.addFrame_replies (s : State) : s.addFrame.replies = s.replies := rfl

/-! ### startFrame -/

@[simp] theorem State.startFrame_v (s : State) (k : BitVec 16) : (s.startFrame k).v = s.v := rfl
@[simp] theorem State.startFrame_i (s : State) (k : BitVec 16) : (s.startFrame k).i = s.i := rfl
@[simp] theorem State.startFrame_pc (s : State) (k : BitVec 16) : (s.startFrame k).pc = s.pc := rfl
@[simp] theorem State.startFrame_stack (s : State) (k : BitVec 16) : (s.startFrame k).stack = s.stack := rfl
@[simp] theorem State.startFrame_sp (s : State) (k : BitVec 16) : (s.startFrame k).sp = s.sp := rfl
@[simp] theorem State.startFrame_keys (s : State) (k : BitVec 16) : (s.startFrame k).keys = keysOf k := rfl
@[simp] theorem State.startFrame_dt (s : State) (k : BitVec 16) : (s.startFrame k).dt = tick s.dt := rfl
@[simp] theorem State.startFrame_st (s : State) (k : BitVec 16) : (s.startFrame k).st = tick s.st := rfl
@[simp] theorem State.startFrame_tone (s : State) (k : BitVec 16) : (s.startFrame k).tone = (s.tone || s.st == 1) := rfl
@[simp] theorem State.startFrame_fb (s : State) (k : BitVec 16) : (s.startFrame k).fb = s.fb := rfl
@[simp] theorem State.startFrame_mem (s : State) (k : BitVec 16) : (s.startFrame k).mem = s.mem := rfl
@[simp] theorem State.startFrame_budget (s : State) (k : BitVec 16) : (s.startFrame k).budget = s.budget + frameUs := rfl
@[simp] theorem State.startFrame_phase (s : State) (k : BitVec 16) : (s.startFrame k).phase = .draining := rfl
@[simp] theorem State.startFrame_cfg (s : State) (k : BitVec 16) : (s.startFrame k).cfg = s.cfg := rfl
@[simp] theorem State.startFrame_draws (s : State) (k : BitVec 16) : (s.startFrame k).draws = s.draws := rfl
@[simp] theorem State.startFrame_calls (s : State) (k : BitVec 16) : (s.startFrame k).calls = s.calls := rfl
@[simp] theorem State.startFrame_replies (s : State) (k : BitVec 16) : (s.startFrame k).replies = s.replies := rfl

/-! ### endFrame -/

@[simp] theorem State.endFrame_v (s : State) : s.endFrame.v = s.v := rfl
@[simp] theorem State.endFrame_i (s : State) : s.endFrame.i = s.i := rfl
@[simp] theorem State.endFrame_pc (s : State) : s.endFrame.pc = s.pc := rfl
@[simp] theorem State.endFrame_stack (s : State) : s.endFrame.stack = s.stack := rfl
@[simp] theorem State.endFrame_sp (s : State) : s.endFrame.sp = s.sp := rfl
@[simp] theorem State.endFrame_keys (s : State) : s.endFrame.keys = s.keys := rfl
@[simp] theorem State.endFrame_dt (s : State) : s.endFrame.dt = s.dt := rfl
@[simp] theorem State.endFrame_st (s : State) : s.endFrame.st = s.st := rfl
@[simp] theorem State.endFrame_tone (s : State) : s.endFrame.tone = s.tone := rfl
@[simp] theorem State.endFrame_fb (s : State) : s.endFrame.fb = s.fb := rfl
@[simp] theorem State.endFrame_mem (s : State) : s.endFrame.mem = s.mem := rfl
@[simp] theorem State.endFrame_budget (s : State) : s.endFrame.budget = s.budget := rfl
@[simp] theorem State.endFrame_phase (s : State) : s.endFrame.phase = .idle := rfl
@[simp] theorem State.endFrame_cfg (s : State) : s.endFrame.cfg = s.cfg := rfl
@[simp] theorem State.endFrame_draws (s : State) : s.endFrame.draws = s.draws := rfl
@[simp] theorem State.endFrame_calls (s : State) : s.endFrame.calls = s.calls := rfl
@[simp] theorem State.endFrame_replies (s : State) : s.endFrame.replies = .cycleDone :: s.replies := rfl

/-! ### fbRead -/

@[simp] theorem State.fbRead_v (s : State) : s.fbRead.v = s.v := rfl
@[simp] theorem State.fbRead_i (s : State) : s.fbRead.i = s.i := rfl
@[simp] theorem State.fbRead_pc (s : State) : s.fbRead.pc = s.pc := rfl
@[simp] theorem State.fbRead_stack (s : State) : s.fbRead.stack = s.stack := rfl
@[simp] theorem State.fbRead_sp (s : State) : s.fbRead.sp = s.sp := rfl
@[simp] theorem State.fbRead_keys (s : State) : s.fbRead.keys = s.keys := rfl
@[simp] theorem State.fbRead_dt (s : State) : s.fbRead.dt = s.dt := rfl
@[simp] theorem State.fbRead_st (s : State) : s.fbRead.st = s.st := rfl
@[simp] theorem State.fbRead_tone (s : State) : s.fbRead.tone = s.tone := rfl
@[simp] theorem State.fbRead_fb (s : State) : s.fbRead.fb = s.fb := rfl
@[simp] theorem State.fbRead_mem (s : State) : s.fbRead.mem = s.mem := rfl
@[simp] theorem State.fbRead_budget (s : State) : s.fbRead.budget = s.budget := rfl
@[simp] theorem State.fbRead_phase (s : State) : s.fbRead.phase = s.phase := rfl
@[simp] theorem State.fbRead_cfg (s : State) : s.fbRead.cfg = s.cfg := rfl
@[simp] theorem State.fbRead_draws (s : State) : s.fbRead.draws = s.draws := rfl
@[simp] theorem State.fbRead_calls (s : State) : s.fbRead.calls = s.calls := rfl
@[simp] theorem State.fbRead_replies (s : State) : s.fbRead.replies = .bitmap s.fb :: s.replies := rfl

/-! ### toneRead -/

@[simp] theorem State.toneRead_v (s : State) : s.toneRead.v = s.v := rfl
@[simp] theorem State.toneRead_i (s : State) : s.toneRead.i = s.i := rfl
@[simp] theorem State.toneRead_pc (s : State) : s.toneRead.pc = s.pc := rfl
@[simp] theorem State.toneRead_stack (s : State) : s.toneRead.stack = s.stack := rfl
@[simp] theorem State.toneRead_sp (s : State) : s.toneRead.sp = s.sp := rfl
@[simp] theorem State.toneRead_keys (s : State) : s.toneRead.keys = s.keys := rfl
@[simp] theorem State.toneRead_dt (s : State) : s.toneRead.dt = s.dt := rfl
@[simp] theorem State.toneRead_st (s : State) : s.toneRead.st = s.st := rfl
@[simp] theorem State.toneRead_tone (s : State) : s.toneRead.tone = false := rfl
@[simp] theorem State.toneRead_fb (s : State) : s.toneRead.fb = s.fb := rfl
@[simp] theorem State.toneRead_mem (s : State) : s.toneRead.mem = s.mem := rfl
@[simp] theorem State.toneRead_budget (s : State) : s.toneRead.budget = s.budget := rfl
@[simp] theorem State.toneRead_phase (s : State) : s.toneRead.phase = s.phase := rfl
@[simp] theorem State.toneRead_cfg (s : State) : s.toneRead.cfg = s.cfg := rfl
@[simp] theorem State.toneRead_draws (s : State) : s.toneRead.draws = s.draws := rfl
@[simp] theorem State.toneRead_calls (s : State) : s.toneRead.calls = s.calls := rfl
@[simp] theorem State.toneRead_replies (s : State) : s.toneRead.replies = .tone s.tone :: s.replies := rfl

/-! ### charge -/

@[simp] theorem State.charge_draining (s : State) (w : Variant) (h : s.phase = .draining) :
    s.charge w = { s with budget := s.budget - s.cfg.cost w } := by simp [State.charge, h]

@[simp] theorem State.charge_idle (s : State) (w : Variant) (h : s.phase = .idle) : s.charge w = s := by
  simp [State.charge, h]

@[simp] theorem State.charge_v (s : State) (w : Variant) : (s.charge w).v = s.v := by
  unfold State.charge; split <;> rfl
@[simp] theorem State.charge_i (s : State) (w : Variant) : (s.charge w).i = s.i := by
  unfold State.charge; split <;> rfl
@[simp] theorem State.charge_pc (s : State) (w : Variant) : (s.charge w).pc = s.pc := by
  unfold State.charge; split <;> rfl
@[simp] theorem State.charge_stack (s : State) (w : Variant) : (s.charge w).stack = s.stack := by
  unfold State.charge; split <;> rfl
@[simp] theorem State.charge_sp (s : State) (w : Variant) : (s.charge w).sp = s.sp := by
  unfold State.charge; split <;> rfl
@[simp] theorem State.charge_keys (s : State) (w : Variant) : (s.charge w).keys = s.keys := by
  unfold State.charge; split <;> rfl
@[simp] theorem State.charge_dt (s : State) (w : Variant) : (s.charge w).dt = s.dt := by
  unfold State.charge; split <;> rfl
@[simp] theorem State.charge_st (s : State) (w : Variant) : (s.charge w).st = s.st := by
  unfold State.charge; split <;> rfl
@[simp] theorem State.charge_tone (s : State) (w : Variant) : (s.charge w).tone = s.tone := by
  unfold State.charge; split <;> rfl
@[simp] theorem State.charge_fb (s : State) (w : Variant) : (s.charge w).fb = s.fb := by
  unfold State.charge; split <;> rfl
@[simp] theorem State.charge_mem (s : State) (w : Variant) : (s.charge w).mem = s.mem := by
  unfold State.charge; split <;> rfl
@[simp] theorem State.charge_phase (s : State) (w : Variant) : (s.charge w).phase = s.phase := by
  unfold State.charge; split <;> rfl
@[simp] theorem State.charge_cfg (s : State) (w : Variant) : (s.charge w).cfg = s.cfg := by
  unfold State.charge; split <;> rfl
@[simp] theorem State.charge_draws (s : State) (w : Variant) : (s.charge w).draws = s.draws := by
  unfold State.charge; split <;> rfl
@[simp] theorem State.charge_calls (s : State) (w : Variant) : (s.charge w).calls = s.calls := by
  unfold State.charge; split <;> rfl
@[simp] theorem State.charge_replies (s : State) (w : Variant) : (s.charge w).replies = s.replies := by
  unfold State.charge; split <;> rfl

end Sys2Proof.Machine
end

