-- ==== Sys2Proof/Laws/Registers.lean ====
section
/-! SUPPORT. Reading a register after a write of one, the register block, the call stack, the keypad: one lemma for each
shared operation that says all it can do. -/

namespace Sys2Proof.Machine

/-! ### Registers -/

theorem State.reg_setReg (s : State) (x z : Reg) (b : Byte) : (s.setReg x b).reg z = if z = x then b else s.reg z := by
  simp only [State.reg, State.setReg_v, Vector.getElem_set, Fin.ext_iff, eq_comm]

theorem State.reg_congr {s t : State} (h : s.v = t.v) (z : Reg) : s.reg z = t.reg z := by simp only [State.reg, h]

@[simp] theorem State.reg_setPc (s : State) (a : Word) (z : Reg) : (s.setPc a).reg z = s.reg z := rfl

@[simp] theorem State.reg_advance (s : State) (z : Reg) : s.advance.reg z = s.reg z := rfl

@[simp] theorem State.reg_skipIf (s : State) (c : Bool) (z : Reg) : (s.skipIf c).reg z = s.reg z := rfl

theorem State.reg_setFlag (s : State) (f : Bool) (z : Reg) :
    (s.setFlag f).reg z = if z = vf then flagByte f else s.reg z := State.reg_setReg s vf z (flagByte f)

/-- The flag write is the last: VF holds the flag, whatever the destination (R120). -/
theorem State.reg_setRegFlag (s : State) (x z : Reg) (r : Byte) (f : Bool) :
    (s.setRegFlag x r f).reg z = if z = vf then flagByte f else if z = x then r else s.reg z := by
  rw [State.setRegFlag, State.reg_setFlag, State.reg_setReg]

theorem State.reg_setCanvas (s : State) (cv : Canvas) (z : Reg) :
    (s.setCanvas cv).reg z = if z = vf then flagByte cv.coll else s.reg z := by
  rw [State.setCanvas, State.reg_setFlag]
  rfl

theorem State.reg_random (s : State) (x z : Reg) (kk r : Byte) :
    (s.random x kk r).reg z = if z = x then r &&& kk else s.reg z := State.reg_setReg s x z (r &&& kk)

/-! ### Tables of sixteen -/

@[simp] theorem getElem_tabulate16 {α : Type} (f : Fin 16 → α) (k : Nat) (h : k < 16) : (tabulate16 f)[k] = f ⟨k, h⟩ := by
  interval_cases k <;> rfl

theorem State.reg_loadBlock (s : State) (x z : Reg) :
    (s.loadBlock x).reg z = if z ≤ x then s.readMem (s.effAddr z.val) else s.reg z := by
  simp [State.reg]

theorem State.length_regBlock (s : State) (x : Reg) : (s.regBlock x).length = x.val + 1 := by
  simp [State.regBlock]

theorem State.getElem_regBlock (s : State) (x : Reg) (k : Nat) (h : k < (s.regBlock x).length) :
    (s.regBlock x)[k] = s.reg ⟨k, by rw [State.length_regBlock] at h; omega⟩ := by
  simp [State.regBlock, State.reg]

theorem keyDown_applyKeys (s : State) (snapshot : BitVec 16) (k : Fin 16) :
    (s.applyKeys snapshot).keyDown k = snapshot.getLsbD k.val := by
  simp [State.keyDown, keysOf]

/-! ### The stack -/

/-- A push fails exactly on a full stack (R26). -/
theorem State.push_eq_none (s : State) (a : Word) : s.push a = none ↔ s.sp.val = 16 := by
  unfold State.push
  split <;> simp <;> omega

/-- What a push does when it succeeds (R26). -/
theorem State.push_eq_some (s : State) (a : Word) (h : s.sp.val < 16) :
    s.push a = some { s with stack := s.stack.set s.sp.val a, sp := ⟨s.sp.val + 1, by omega⟩ } := by
  rw [State.push, dif_pos h]

/-- A pop fails exactly on an empty stack (R26). -/
theorem State.pop_eq_none (s : State) : s.pop = none ↔ s.sp.val = 0 := by
  unfold State.pop
  split <;> simp <;> omega

/-- What a pop does when it succeeds (R26, R102). -/
theorem State.pop_eq_some (s : State) (h : 0 < s.sp.val) :
    s.pop = some (s.stack[s.sp.val - 1]'(by omega), { s with sp := ⟨s.sp.val - 1, by omega⟩ }) := by
  rw [State.pop, dif_pos h]

/-! ### Key codes and digits -/

theorem hexDigit_of_lt {b : Byte} (h : b.toNat < 16) : hexDigit b = some ⟨b.toNat, h⟩ := by rw [hexDigit, dif_pos h]

theorem hexDigit_of_ge {b : Byte} (h : 16 ≤ b.toNat) : hexDigit b = none := by rw [hexDigit, dif_neg (by omega)]

/-- No key is down: the scan finds none (R153). -/
theorem State.lowestKey_eq_none (s : State) : s.lowestKey = none ↔ ∀ k, s.keyDown k = false := by
  simp [State.lowestKey]

/-- The scan finds the least key that is down (R153). -/
theorem State.lowestKey_eq_some (s : State) (k : Fin 16) :
    s.lowestKey = some k ↔ s.keyDown k = true ∧ ∀ j, j < k → s.keyDown j = false := by
  generalize hf : s.keyDown = f
  simp only [State.lowestKey, hf]
  clear hf
  constructor
  · intro h
    rw [List.find?_eq_some_iff_append] at h
    obtain ⟨hk, as, bs, hab, has⟩ := h
    refine ⟨hk, fun j hj => ?_⟩
    have hs : (List.finRange 16).Pairwise (· < ·) := List.pairwise_lt_finRange 16
    have hmem : j ∈ List.finRange 16 := List.mem_finRange j
    rw [hab] at hmem hs
    simp only [List.mem_append, List.mem_cons] at hmem
    rcases hmem with hmem | rfl | hmem
    · simpa using has j hmem
    · exact absurd hj (lt_irrefl _)
    · have := (List.pairwise_cons.1 (List.pairwise_append.1 hs).2.1).1 j hmem
      exact absurd (lt_trans hj this) (lt_irrefl _)
  · rintro ⟨hk, hlt⟩
    cases hfind : (List.finRange 16).find? (fun k => f k) with
    | none =>
      rw [List.find?_eq_none] at hfind
      exact absurd hk (by simpa using hfind k (List.mem_finRange k))
    | some m =>
      rw [List.find?_eq_some_iff_append] at hfind
      obtain ⟨hm, as, bs, hab, has⟩ := hfind
      have hs : (List.finRange 16).Pairwise (· < ·) := List.pairwise_lt_finRange 16
      rcases lt_trichotomy m k with h | h | h
      · simp [hlt m h] at hm
      · rw [h]
      · have hmem : k ∈ List.finRange 16 := List.mem_finRange k
        rw [hab] at hmem hs
        simp only [List.mem_append, List.mem_cons] at hmem
        rcases hmem with hmem | rfl | hmem
        · simpa [hk] using has k hmem
        · exact absurd h (lt_irrefl _)
        · have := (List.pairwise_cons.1 (List.pairwise_append.1 hs).2.1).1 k hmem
          exact absurd (lt_trans h this) (lt_irrefl _)

end Sys2Proof.Machine
end

