-- ==== Sys2Proof/Laws/Exec.lean ====
section
/-! SUPPORT. What the executor and a step can do, said once: the inversion lemmas later proofs cite instead of unfolding exec
and step. -/

namespace Sys2Proof.Machine

/-! ### The executor -/

/-- What every instruction leaves alone: the drain loop, the budget, the parameters, the keys, the tone flag, the host. -/
structure Keeps (s t : State) : Prop where
  phase : t.phase = s.phase
  budget : t.budget = s.budget
  cfg : t.cfg = s.cfg
  keys : t.keys = s.keys
  tone : t.tone = s.tone
  calls : t.calls = s.calls
  replies : t.replies = s.replies

theorem Keeps.refl (s : State) : Keeps s s := ⟨rfl, rfl, rfl, rfl, rfl, rfl, rfl⟩

/-- Every instruction completes: in a state in which it has taken an error it can raise, or in one that keeps all a program
cannot reach. -/
theorem exec_cases (i : Instr) (s : State) :
    (∃ e, CanRaise i e ∧ exec i s = .next (s.takeError e)) ∨ ∃ t, exec i s = .next t ∧ Keeps s t := by
  cases i
  case ret =>
    rcases Nat.eq_zero_or_pos s.sp.val with h | h
    · exact .inl ⟨.stackUnderflow, rfl, by simp only [exec, execRet, (State.pop_eq_none s).2 h, raise]⟩
    · simp only [exec, execRet, State.pop_eq_some s h]
      exact .inr ⟨_, rfl, rfl, rfl, rfl, rfl, rfl, rfl, rfl⟩
  case call nnn =>
    rcases Nat.lt_or_ge s.sp.val 16 with h | h
    · simp only [exec, execCall, State.push_eq_some s _ h]
      exact .inr ⟨_, rfl, rfl, rfl, rfl, rfl, rfl, rfl, rfl⟩
    · exact .inl ⟨.stackOverflow, rfl, by
        simp only [exec, execCall, (State.push_eq_none s _).2 (by have := s.sp.isLt; omega), raise]⟩
  case sys nnn => exact .inl ⟨.unknownOpcode (sysWord nnn), ⟨rfl, rfl⟩, rfl⟩
  case ldVxK x =>
    simp only [exec, execLdVxK]
    split
    · exact .inr ⟨_, rfl, rfl, rfl, rfl, rfl, rfl, rfl, rfl⟩
    · exact .inr ⟨_, rfl, Keeps.refl s⟩
  all_goals
    first
    | exact .inr ⟨_, rfl, rfl, rfl, rfl, rfl, rfl, rfl, rfl⟩
    | (simp only [exec, execDrw, execSkp, execSknp, execLdF, execLdB, execDumpRegs, execLoadRegs, unspecified, raise]
       split
       · exact .inr ⟨_, rfl, rfl, rfl, rfl, rfl, rfl, rfl, rfl⟩
       · exact .inl ⟨_, by simp [CanRaise, Instr.variant], rfl⟩)

/-- A next state of exec is one in which an error the instruction can raise was taken, or one that keeps all a program
cannot reach. -/
theorem exec_next_cases {i : Instr} {s t : State} (h : exec i s = .next t) :
    (∃ e, CanRaise i e ∧ t = s.takeError e) ∨ Keeps s t := by
  rcases exec_cases i s with ⟨e, he, hx⟩ | ⟨u, hx, hk⟩ <;> rw [hx] at h <;> cases h
  · exact .inl ⟨e, he, rfl⟩
  · exact .inr hk

theorem blockInMem_iff (s : State) (n : Nat) : s.blockInMem n = true ↔ n = 0 ∨ s.i.toNat + n ≤ s.cfg.memSize := by
  rw [State.blockInMem, blockFits_iff, State.effAddr]
  rfl

/-- An instruction that stores keeps the canonical form: it has checked its whole block first (R55). -/
theorem writeAtI_memOk {s : State} {bs : List Byte} (hs : MemOk s) (h : s.blockInMem bs.length = true) :
    MemOk (s.writeAtI bs) := by
  rw [blockInMem_iff] at h
  rcases h with h | h
  · rw [List.length_eq_zero_iff.1 h]
    exact hs
  · exact Memory.writeBlock_wf s.cfg (by simpa [State.effAddr] using h) hs

/-! ### The step -/

theorem step_of_idle {s : State} (h : s.phase = .idle) : step s = .next s.hostTurn := by simp [step, h]

theorem step_of_draining {s : State} (h : s.phase = .draining) : step s = s.drainStep := by simp [step, h]

theorem step_of_spent {s : State} (h : s.phase = .draining) (hb : s.budget ≤ 0) : step s = .next s.endFrame := by
  rw [step_of_draining h, State.drainStep, if_neg (by omega)]

theorem step_of_aboutToRun {s : State} {w : Word} (h : AboutToRun s w) : step s = s.runWord w := by
  obtain ⟨h1, h2, h3, h4⟩ := h
  rw [step_of_draining h1, State.drainStep, if_pos h2, State.drainIteration,
    if_pos ((hasAddr_iff _ _).2 (by omega)), if_pos ((hasAddr_iff _ _).2 h3), h4]

theorem step_of_pcOut {s : State} (h : s.phase = .draining) (hb : 0 < s.budget) (hp : s.cfg.memSize ≤ s.pc.toNat) :
    step s = raise (.programCounterOutOfBounds s.pc) s := by
  rw [step_of_draining h, State.drainStep, if_pos hb, State.drainIteration,
    if_neg (by rw [(hasAddr_eq_false_iff _ _).2 hp]; decide)]

theorem step_of_straddle {s : State} (h : s.phase = .draining) (hb : 0 < s.budget) (hp : s.pc.toNat + 1 = s.cfg.memSize) :
    step s = unspecified .fetchStraddle s := by
  rw [step_of_draining h, State.drainStep, if_pos hb, State.drainIteration, if_pos ((hasAddr_iff _ _).2 (by omega)),
    if_neg (by rw [(hasAddr_eq_false_iff _ _).2 (by omega)]; decide)]

/-- The five things a step can be: the host's turn, the end of a frame, one of the two fetch errors, the run of a word. -/
theorem step_cases (s : State) :
    (s.phase = .idle ∧ step s = .next s.hostTurn) ∨
      (s.phase = .draining ∧ s.budget ≤ 0 ∧ step s = .next s.endFrame) ∨
      (s.phase = .draining ∧ 0 < s.budget ∧ s.cfg.memSize ≤ s.pc.toNat ∧
        step s = raise (.programCounterOutOfBounds s.pc) s) ∨
      (s.phase = .draining ∧ 0 < s.budget ∧ s.pc.toNat + 1 = s.cfg.memSize ∧ step s = unspecified .fetchStraddle s) ∨
      (AboutToRun s s.fetchWord ∧ step s = s.runWord s.fetchWord) := by
  cases h : s.phase with
  | idle => exact .inl ⟨rfl, step_of_idle h⟩
  | draining =>
    rcases Int.lt_or_le 0 s.budget with hb | hb
    · rcases Nat.lt_trichotomy (s.pc.toNat + 1) s.cfg.memSize with hp | hp | hp
      · have ha : AboutToRun s s.fetchWord := ⟨h, hb, hp, rfl⟩
        exact .inr (.inr (.inr (.inr ⟨ha, step_of_aboutToRun ha⟩)))
      · exact .inr (.inr (.inr (.inl ⟨rfl, hb, hp, step_of_straddle h hb hp⟩)))
      · exact .inr (.inr (.inl ⟨rfl, hb, by omega, step_of_pcOut h hb (by omega)⟩))
    · exact .inr (.inl ⟨rfl, hb, step_of_spent h hb⟩)

/-- What running a word can be: an illegal word, or exec of the decoded instruction with its charge. -/
theorem runWord_cases (s : State) (w : Word) :
    (∃ e, decodeWord w = .error e ∧ s.runWord w = raise (.unknownOpcode w) s) ∨
      ∃ i, decodeWord w = .ok i ∧ s.runWord w = chargeOutcome i.variant (exec i s) := by
  unfold State.runWord
  cases decodeWord w with
  | error e => exact .inl ⟨e, rfl, rfl⟩
  | ok i => exact .inr ⟨i, rfl, rfl⟩

theorem cost_pos (c : Config) (w : Variant) : 0 < c.cost w := Nat.succ_pos _

theorem le_foldr_max {l : List Nat} {a : Nat} (h : a ∈ l) : a ≤ l.foldr max 0 := by
  induction l with
  | nil => cases h
  | cons b l ih =>
    simp only [List.foldr_cons]
    rcases List.mem_cons.1 h with rfl | h
    · exact Nat.le_max_left _ _
    · exact le_trans (ih h) (Nat.le_max_right _ _)

theorem cost_le_maxCost (c : Config) (w : Variant) : c.cost w ≤ maxCost c :=
  Nat.succ_le_succ (le_foldr_max (by simp))

end Sys2Proof.Machine
end

