-- ==== Sys2Proof/Laws/HostOps.lean ====
section
/-! SUPPORT. What the operations of the host's interface do: the timer tick, the memory of a fresh machine. -/

namespace Sys2Proof.Machine

/-- A tick takes one off, with floor 0 (R28). -/
theorem toNat_tick (t : Byte) : (tick t).toNat = t.toNat - 1 := by
  unfold tick
  split
  · simp_all
  · rename_i h
    have h' : t.toNat ≠ 0 := fun hz => h (BitVec.eq_of_toNat_eq (by simpa using hz))
    have := t.isLt
    rw [BitVec.toNat_sub]; simp; omega

/-- What a fresh machine's memory holds: the program's bytes, and the reset content elsewhere (R232, R233). -/
theorem read_fresh (s : State) (program : List Byte) (h : 0x200 + program.length ≤ s.cfg.memSize) (a : Nat) :
    (s.fresh program).readMem a =
      if h : 0x200 ≤ a ∧ a < 0x200 + program.length then program[a - 0x200]'(by omega) else unwritten s.cfg a :=
  Memory.read_writeBlock s.cfg h (Memory.nil_wf s.cfg) a

end Sys2Proof.Machine
end

