-- ==== Sys2Proof/Laws/PerInstr.lean ====
section
/-! SUPPORT. Statements made of every instruction, one lemma a constructor. Family EncodesItsRow: the word the encoder gives
carries the fixed bits of the instruction's own row of the opcode table (R75). -/

namespace Sys2Proof.Laws.EncodesItsRow

/-- The row of the opcode table for a variant. -/
def rowOf (v : Variant) : Option OpcodeRow := opcodeTable.find? fun r => r.variant == v

/-- The encoded word has, under the mask of the instruction's own row, the row's pattern. -/
def Statement (i : Instr) : Prop :=
  ∃ r, rowOf i.variant = some r ∧ encode i &&& r.mask = r.pattern

theorem mask_addr (op : BitVec 4) (nnn : Addr12) : formatAddr op nnn &&& 0xF000#16 = op ++ 0x000#12 := by
  apply BitVec.eq_of_getLsbD_eq
  intro k hk
  simp only [formatAddr, BitVec.getLsbD_and, BitVec.getLsbD_append]
  interval_cases k <;> simp

theorem mask_xkk (op : BitVec 4) (x : Reg) (kk : Byte) : formatXkk op x kk &&& 0xF000#16 = op ++ 0x000#12 := by
  apply BitVec.eq_of_getLsbD_eq
  intro k hk
  simp only [formatXkk, BitVec.getLsbD_and, BitVec.getLsbD_append]
  interval_cases k <;> simp

theorem mask_sel (op : BitVec 4) (x : Reg) (kk : Byte) : formatXkk op x kk &&& 0xF0FF#16 = (op ++ 0x0#4) ++ kk := by
  apply BitVec.eq_of_getLsbD_eq
  intro k hk
  simp only [formatXkk, BitVec.getLsbD_and, BitVec.getLsbD_append]
  interval_cases k <;> simp

theorem mask_xy (op : BitVec 4) (x y : Reg) (n : Fin 16) :
    formatXyn op x y n &&& 0xF00F#16 = op ++ (0x00#8 ++ nibble n) := by
  apply BitVec.eq_of_getLsbD_eq
  intro k hk
  simp only [formatXyn, BitVec.getLsbD_and, BitVec.getLsbD_append]
  interval_cases k <;> simp

theorem mask_xyn (op : BitVec 4) (x y : Reg) (n : Fin 16) : formatXyn op x y n &&& 0xF000#16 = op ++ 0x000#12 := by
  apply BitVec.eq_of_getLsbD_eq
  intro k hk
  simp only [formatXyn, BitVec.getLsbD_and, BitVec.getLsbD_append]
  interval_cases k <;> simp

theorem cls : Statement .cls := ⟨_, rfl, by decide⟩

theorem ret : Statement .ret := ⟨_, rfl, by decide⟩

theorem sys (nnn : Addr12) : Statement (.sys nnn) := ⟨_, rfl, (mask_addr _ _).trans (by decide)⟩

theorem jp (nnn : Addr12) : Statement (.jp nnn) := ⟨_, rfl, (mask_addr _ _).trans (by decide)⟩

theorem call (nnn : Addr12) : Statement (.call nnn) := ⟨_, rfl, (mask_addr _ _).trans (by decide)⟩

theorem seImm (x : Reg) (kk : Byte) : Statement (.seImm x kk) := ⟨_, rfl, (mask_xkk _ _ _).trans (by decide)⟩

theorem sneImm (x : Reg) (kk : Byte) : Statement (.sneImm x kk) := ⟨_, rfl, (mask_xkk _ _ _).trans (by decide)⟩

theorem seReg (x : Reg) (y : Reg) : Statement (.seReg x y) := ⟨_, rfl, (mask_xy _ _ _ _).trans (by decide)⟩

theorem ldImm (x : Reg) (kk : Byte) : Statement (.ldImm x kk) := ⟨_, rfl, (mask_xkk _ _ _).trans (by decide)⟩

theorem addImm (x : Reg) (kk : Byte) : Statement (.addImm x kk) := ⟨_, rfl, (mask_xkk _ _ _).trans (by decide)⟩

theorem ldReg (x : Reg) (y : Reg) : Statement (.ldReg x y) := ⟨_, rfl, (mask_xy _ _ _ _).trans (by decide)⟩

theorem orReg (x : Reg) (y : Reg) : Statement (.orReg x y) := ⟨_, rfl, (mask_xy _ _ _ _).trans (by decide)⟩

theorem andReg (x : Reg) (y : Reg) : Statement (.andReg x y) := ⟨_, rfl, (mask_xy _ _ _ _).trans (by decide)⟩

theorem xorReg (x : Reg) (y : Reg) : Statement (.xorReg x y) := ⟨_, rfl, (mask_xy _ _ _ _).trans (by decide)⟩

theorem addReg (x : Reg) (y : Reg) : Statement (.addReg x y) := ⟨_, rfl, (mask_xy _ _ _ _).trans (by decide)⟩

theorem sub (x : Reg) (y : Reg) : Statement (.sub x y) := ⟨_, rfl, (mask_xy _ _ _ _).trans (by decide)⟩

theorem shr (x : Reg) (y : Reg) : Statement (.shr x y) := ⟨_, rfl, (mask_xy _ _ _ _).trans (by decide)⟩

theorem subn (x : Reg) (y : Reg) : Statement (.subn x y) := ⟨_, rfl, (mask_xy _ _ _ _).trans (by decide)⟩

theorem shl (x : Reg) (y : Reg) : Statement (.shl x y) := ⟨_, rfl, (mask_xy _ _ _ _).trans (by decide)⟩

theorem sneReg (x : Reg) (y : Reg) : Statement (.sneReg x y) := ⟨_, rfl, (mask_xy _ _ _ _).trans (by decide)⟩

theorem ldI (nnn : Addr12) : Statement (.ldI nnn) := ⟨_, rfl, (mask_addr _ _).trans (by decide)⟩

theorem jpV0 (nnn : Addr12) : Statement (.jpV0 nnn) := ⟨_, rfl, (mask_addr _ _).trans (by decide)⟩

theorem rnd (x : Reg) (kk : Byte) : Statement (.rnd x kk) := ⟨_, rfl, (mask_xkk _ _ _).trans (by decide)⟩

theorem drw (x : Reg) (y : Reg) (n : Height) : Statement (.drw x y n) := ⟨_, rfl, (mask_xyn _ _ _ _).trans (by decide)⟩

theorem skp (x : Reg) : Statement (.skp x) := ⟨_, rfl, (mask_sel _ _ _).trans (by decide)⟩

theorem sknp (x : Reg) : Statement (.sknp x) := ⟨_, rfl, (mask_sel _ _ _).trans (by decide)⟩

theorem ldVxDT (x : Reg) : Statement (.ldVxDT x) := ⟨_, rfl, (mask_sel _ _ _).trans (by decide)⟩

theorem ldVxK (x : Reg) : Statement (.ldVxK x) := ⟨_, rfl, (mask_sel _ _ _).trans (by decide)⟩

theorem ldDTVx (x : Reg) : Statement (.ldDTVx x) := ⟨_, rfl, (mask_sel _ _ _).trans (by decide)⟩

theorem ldSTVx (x : Reg) : Statement (.ldSTVx x) := ⟨_, rfl, (mask_sel _ _ _).trans (by decide)⟩

theorem addI (x : Reg) : Statement (.addI x) := ⟨_, rfl, (mask_sel _ _ _).trans (by decide)⟩

theorem ldF (x : Reg) : Statement (.ldF x) := ⟨_, rfl, (mask_sel _ _ _).trans (by decide)⟩

theorem ldB (x : Reg) : Statement (.ldB x) := ⟨_, rfl, (mask_sel _ _ _).trans (by decide)⟩

theorem dumpRegs (x : Reg) : Statement (.dumpRegs x) := ⟨_, rfl, (mask_sel _ _ _).trans (by decide)⟩

theorem loadRegs (x : Reg) : Statement (.loadRegs x) := ⟨_, rfl, (mask_sel _ _ _).trans (by decide)⟩

end Sys2Proof.Laws.EncodesItsRow
end

