-- ==== Sys2Proof/Tests/Slice0.lean ====
section
/-! SUPPORT. The model's own tests. Expected values come from spec/95_test_vectors.md (the `tv` ids in the docstrings) and
from the encodings of spec/30_encoding.md. At the end, for each statement with hypotheses, states that meet them. -/

namespace Sys2Proof.Machine.Tests

/-! ### Helpers -/

/-- The parameters the vectors use: MEM_SIZE 0x1000, FONT_BASE 0x050, the default font, every cost 1000. -/
def vectorCfg (f : ShiftFlagSrc) : Config :=
  { memExtra := 0xDFE, fontBase := 0x50, font := conventionalFont, costLess1 := Vector.replicate 35 999, shiftFlagSrc := f }

/-- The reset state under those parameters. -/
def s0 : State := State.blank (vectorCfg .vy)

/-- The same with the other `SHIFT_FLAG_SRC`. -/
def s0vx : State := State.blank (vectorCfg .vx)

/-- The state with a few registers set. -/
def regs (s : State) (l : List (Reg × Byte)) : State := l.foldl (fun t p => t.setReg p.1 p.2) s

/-- The state with one key down. -/
def key (s : State) (k : Fin 16) : State := { s with keys := s.keys.set k.val true }

/-- The state with `I` set and bytes there. -/
def atI (s : State) (a : Word) (bs : List Byte) : State := { s with i := a }.writeAtI bs

/-- Inside a `CYCLE`, about to fetch the word. -/
def ready (s : State) (w : Nat) : State := s.withFetchWord 16 w

/-- The state after one drain iteration on the word; none where it answers none. -/
def after (s : State) (w : Nat) : Option State :=
  match step (ready s w) with
  | .next t => some t
  | .fault _ => none
  | .refused _ => none

/-- What is left after an iteration that took an error: the answers, the control point, `pc`, `sp`, the budget. -/
def told (s : State) (w : Nat) : Option (List Reply × Phase × Word × Nat × Int) :=
  (after s w).map fun t => (t.replies, t.phase, t.pc, t.sp.val, t.budget)

/-- The state after one host operation on an idle machine. -/
def hosted (s : State) (op : HostOp) : Option State :=
  match step { s with calls := [op] } with
  | .next t => some t
  | .fault _ => none
  | .refused _ => none

/-! ### Well-formedness: the one check, and the two terms it refuses -/

theorem test_wf_refuses_sys_0E0 : (Instr.sys 0x0E0).wf = false := by decide
theorem test_wf_refuses_sys_0EE : (Instr.sys 0x0EE).wf = false := by decide
theorem test_wf_takes_sys_0E1 : (Instr.sys 0x0E1).wf = true := by decide

/-! ### Decoding: a word of each row of R75, written out by its fields -/

theorem test_decode_cls : decodeWord 0b0000000011100000 = .ok .cls := by decide
theorem test_decode_ret : decodeWord 0b0000000011101110 = .ok .ret := by decide
theorem test_decode_sys : decodeWord 0b0000000111100000 = .ok (.sys 0x1E0) := by decide
theorem test_decode_jp : decodeWord 0b0001101010111100 = .ok (.jp 0xABC) := by decide
theorem test_decode_call : decodeWord 0b0010001100000001 = .ok (.call 0x301) := by decide
theorem test_decode_seImm : decodeWord 0b0011000110100101 = .ok (.seImm 1 0xA5) := by decide
theorem test_decode_sneImm : decodeWord 0b0100001000010001 = .ok (.sneImm 2 0x11) := by decide
theorem test_decode_seReg : decodeWord 0b0101001101000000 = .ok (.seReg 3 4) := by decide
theorem test_decode_ldImm : decodeWord 0b0110111110101011 = .ok (.ldImm 15 0xAB) := by decide
theorem test_decode_addImm : decodeWord 0b0111000100000010 = .ok (.addImm 1 0x02) := by decide
theorem test_decode_ldReg : decodeWord 0b1000000100100000 = .ok (.ldReg 1 2) := by decide
theorem test_decode_orReg : decodeWord 0b1000000100100001 = .ok (.orReg 1 2) := by decide
theorem test_decode_andReg : decodeWord 0b1000000100100010 = .ok (.andReg 1 2) := by decide
theorem test_decode_xorReg : decodeWord 0b1000000100100011 = .ok (.xorReg 1 2) := by decide
theorem test_decode_addReg : decodeWord 0b1000000100100100 = .ok (.addReg 1 2) := by decide
theorem test_decode_sub : decodeWord 0b1000000100100101 = .ok (.sub 1 2) := by decide
theorem test_decode_shr : decodeWord 0b1000000100100110 = .ok (.shr 1 2) := by decide
theorem test_decode_subn : decodeWord 0b1000000100100111 = .ok (.subn 1 2) := by decide
theorem test_decode_shl : decodeWord 0b1000000100101110 = .ok (.shl 1 2) := by decide
theorem test_decode_sneReg : decodeWord 0b1001001101000000 = .ok (.sneReg 3 4) := by decide
theorem test_decode_ldI : decodeWord 0b1010101111001101 = .ok (.ldI 0xBCD) := by decide
theorem test_decode_jpV0 : decodeWord 0b1011001100000001 = .ok (.jpV0 0x301) := by decide
theorem test_decode_rnd : decodeWord 0b1100001100001111 = .ok (.rnd 3 0x0F) := by decide
theorem test_decode_drw : decodeWord 0b1101011111101001 = .ok (.drw 7 0xE 9) := by decide
theorem test_decode_skp : decodeWord 0b1110001010011110 = .ok (.skp 2) := by decide
theorem test_decode_sknp : decodeWord 0b1110001010100001 = .ok (.sknp 2) := by decide
theorem test_decode_ldVxDT : decodeWord 0b1111001000000111 = .ok (.ldVxDT 2) := by decide
theorem test_decode_ldVxK : decodeWord 0b1111000100001010 = .ok (.ldVxK 1) := by decide
theorem test_decode_ldDTVx : decodeWord 0b1111000000010101 = .ok (.ldDTVx 0) := by decide
theorem test_decode_ldSTVx : decodeWord 0b1111000000011000 = .ok (.ldSTVx 0) := by decide
theorem test_decode_addI : decodeWord 0b1111000100011110 = .ok (.addI 1) := by decide
theorem test_decode_ldF : decodeWord 0b1111000000101001 = .ok (.ldF 0) := by decide
theorem test_decode_ldB : decodeWord 0b1111000000110011 = .ok (.ldB 0) := by decide
theorem test_decode_dumpRegs : decodeWord 0b1111001001010101 = .ok (.dumpRegs 2) := by decide
theorem test_decode_loadRegs : decodeWord 0b1111001001100101 = .ok (.loadRegs 2) := by decide

/-- tvE6 to tvE9: words next to legal ones match no row. -/
theorem test_decode_refuses_neighbours :
    [0x5121, 0x512F, 0x9121, 0x8128, 0x812D, 0x812F, 0xE19F, 0xE1A0, 0xF100, 0xF175, 0xF11F].all
      (fun w => decodeWord (BitVec.ofNat 16 w) == .error (.unknownOpcode (BitVec.ofNat 16 w))) = true := by decide

/-- From bytes, the byte at the lower address is the high one (tvM1); what follows is left over; one byte is no word. -/
theorem test_decode_bytes :
    decode [0x12, 0x34, 0x56] = .ok (.jp 0x234, [0x56]) ∧ decode [0x12] = .error .truncated := by decide

/-! ### Control transfer -/

/-- tvC5 -/
theorem test_ret : (after { s0 with sp := 1, stack := s0.stack.set 0 0x206 } 0x00EE).map
    (fun t => (t.pc, t.sp.val, t.stack[0])) = some (0x206, 0, 0x206) := by decide
/-- tvC6: the error is reported, nothing else changes, nothing is charged. -/
theorem test_ret_underflow : told s0 0x00EE = some ([.cycleFailed .stackUnderflow], .idle, 0x200, 0, 16666) := by decide
/-- tvE4 -/
theorem test_sys : told s0 0x01E0 = some ([.cycleFailed (.unknownOpcode 0x01E0)], .idle, 0x200, 0, 16666) := by decide
/-- tvC1; the cost 1000 is charged. -/
theorem test_jp : (after s0 0x1ABC).map (fun t => (t.pc, t.budget)) = some (0x0ABC, 15666) := by decide
/-- tvC3 -/
theorem test_call : (after { s0 with pc := 0x204 } 0x2300).map (fun t => (t.stack[0], t.sp.val, t.pc)) =
    some (0x206, 1, 0x300) := by decide
/-- tvC4 -/
theorem test_call_overflow : told { s0 with sp := 16 } 0x2300 =
    some ([.cycleFailed .stackOverflow], .idle, 0x200, 16, 16666) := by decide
/-- tvC7 -/
theorem test_seImm_taken : (after s0 0x3100).map State.pc = some 0x204 := by decide
/-- tvC8 -/
theorem test_seImm_not_taken : (after (regs s0 [(1, 1)]) 0x3100).map State.pc = some 0x202 := by decide
/-- tvC9 -/
theorem test_sneImm_taken : (after (regs s0 [(2, 0x10)]) 0x4211).map State.pc = some 0x204 := by decide
/-- tvC10 -/
theorem test_sneImm_not_taken : (after (regs s0 [(2, 0x11)]) 0x4211).map State.pc = some 0x202 := by decide
/-- tvC11 -/
theorem test_seReg_taken : (after (regs s0 [(3, 7), (4, 7)]) 0x5340).map State.pc = some 0x204 := by decide
/-- tvC13's registers: unequal, so SE does not skip. -/
theorem test_seReg_not_taken : (after (regs s0 [(3, 7), (4, 8)]) 0x5340).map State.pc = some 0x202 := by decide
/-- tvC13 -/
theorem test_sneReg_taken : (after (regs s0 [(3, 7), (4, 8)]) 0x9340).map State.pc = some 0x204 := by decide
/-- tvC14 -/
theorem test_sneReg_same_register : (after s0 0x9330).map State.pc = some 0x202 := by decide
/-- tvC15 -/
theorem test_jpV0 : (after (regs s0 [(0, 0x04)]) 0xB300).map State.pc = some 0x304 := by decide
/-- tvC16 -/
theorem test_jpV0_not_masked : (after (regs s0 [(0, 0xFF)]) 0xBFFF).map State.pc = some 0x10FE := by decide

/-! ### Arithmetic -/

/-- The two registers a vector looks at, after the word. -/
def xAndFlag (s : State) (w : Nat) (x : Reg) : Option (Byte × Byte × Word) :=
  (after s w).map fun t => (t.reg x, t.reg 15, t.pc)

/-- tvA1 -/
theorem test_ldImm : xAndFlag s0 0x6A42 10 = some (0x42, 0, 0x202) := by decide
/-- tvA2 -/
theorem test_addImm_wraps_without_carry : xAndFlag (regs s0 [(1, 0xFF)]) 0x7102 1 = some (0x01, 0, 0x202) := by decide
/-- tvA4 -/
theorem test_ldReg : xAndFlag (regs s0 [(2, 0x33)]) 0x8120 1 = some (0x33, 0, 0x202) := by decide
/-- tvA5 -/
theorem test_or : xAndFlag (regs s0 [(1, 0x0F), (2, 0xF0), (15, 1)]) 0x8121 1 = some (0xFF, 1, 0x202) := by decide
/-- tvA6 -/
theorem test_and : xAndFlag (regs s0 [(1, 0x3C), (2, 0x0F)]) 0x8122 1 = some (0x0C, 0, 0x202) := by decide
/-- tvA7 -/
theorem test_xor : xAndFlag (regs s0 [(1, 0xFF), (2, 0x0F)]) 0x8123 1 = some (0xF0, 0, 0x202) := by decide
/-- tvA11: the sum 0x00 in VF is overwritten by the flag. -/
theorem test_add_into_vf : xAndFlag (regs s0 [(15, 0xFF), (1, 0x01)]) 0x8F14 15 = some (1, 1, 0x202) := by decide
/-- tvA12: the old VF is the addend. -/
theorem test_add_from_vf : xAndFlag (regs s0 [(15, 0x05), (1, 0xFE)]) 0x81F4 1 = some (0x03, 1, 0x202) := by decide
/-- tvA14 -/
theorem test_sub_borrows : xAndFlag (regs s0 [(1, 3), (2, 5)]) 0x8125 1 = some (0xFE, 0, 0x202) := by decide
/-- tvA15 -/
theorem test_sub_equal_clears_flag : xAndFlag (regs s0 [(1, 5), (2, 5), (15, 1)]) 0x8125 1 = some (0, 0, 0x202) := by decide
/-- tvA19 -/
theorem test_shr_takes_vy : xAndFlag (regs s0 [(1, 0xAA), (2, 0x05)]) 0x8126 1 = some (0x02, 1, 0x202) := by decide
/-- tvA20 -/
theorem test_shr_flag_from_vx : xAndFlag (regs s0vx [(1, 0x01), (2, 0x04)]) 0x8126 1 = some (0x02, 1, 0x202) := by decide
/-- tvA16 -/
theorem test_subn : xAndFlag (regs s0 [(1, 3), (2, 5)]) 0x8127 1 = some (2, 1, 0x202) := by decide
/-- tvA17 -/
theorem test_subn_borrows : xAndFlag (regs s0 [(1, 5), (2, 3)]) 0x8127 1 = some (0xFE, 0, 0x202) := by decide
/-- tvA23 -/
theorem test_shl_takes_vy : xAndFlag (regs s0 [(2, 0x81)]) 0x812E 1 = some (0x02, 1, 0x202) := by decide
/-- tvA24 -/
theorem test_shl_flag_from_vx : xAndFlag (regs s0vx [(1, 0x80), (2, 0x01)]) 0x812E 1 = some (0x02, 1, 0x202) := by decide
/-- tvA26, for a given draw. -/
theorem test_rnd_masks : (s0.random 3 0x0F 0xA7).reg 3 = 0x07 := by decide
/-- tvA27: a draw is counted and `pc` goes on. -/
theorem test_rnd_counts : (after s0 0xC300).map (fun t => (t.draws, t.pc)) = some (1, 0x202) := by decide

/-! ### Display -/

/-- tvG1 -/
theorem test_cls : (after { s0 with fb := Vector.replicate 256 0xFF } 0x00E0).map (fun t => (t.fb[0], t.fb[255], t.pc)) =
    some (0x00, 0x00, 0x202) := by decide
/-- tvG2: the horizontal wrap stays in row 31. -/
theorem test_drw_wraps : (after (atI (regs s0 [(1, 62), (2, 31)]) 0x300 [0xF0]) 0xD121).map
    (fun t => (t.fb[255], t.fb[248], t.reg 15)) = some (0x03, 0xC0, 0) := by decide
/-- tvG7: a collision. -/
theorem test_drw_collides : (after (atI { s0 with fb := s0.fb.set 0 0x80 } 0x300 [0xC0]) 0xD121).map
    (fun t => (t.fb[0], t.reg 15)) = some (0x40, 1) := by decide

/-! ### Keypad -/

/-- tvK1 -/
theorem test_skp_down : (after (key (regs s0 [(2, 5)]) 5) 0xE29E).map State.pc = some 0x204 := by decide
/-- tvK6: the code is not masked to 5. -/
theorem test_skp_code_too_large : told (key (regs s0 [(2, 0x15)]) 5) 0xE29E =
    some ([.cycleFailed (.unspecified .keyIndex)], .idle, 0x200, 0, 16666) := by decide
/-- tvK4 -/
theorem test_sknp_up : (after (regs s0 [(2, 5)]) 0xE2A1).map State.pc = some 0x204 := by decide
/-- tvK3 -/
theorem test_sknp_down : (after (key (regs s0 [(2, 5)]) 5) 0xE2A1).map State.pc = some 0x202 := by decide
/-- tvK7: the lowest key. -/
theorem test_ldVxK_lowest : (after (key (key s0 7) 10) 0xF10A).map (fun t => (t.reg 1, t.pc)) = some (7, 0x202) := by decide
/-- tvK8: polling is charged. -/
theorem test_ldVxK_polls : (after (regs s0 [(1, 0x33)]) 0xF10A).map (fun t => (t.reg 1, t.pc, t.budget)) =
    some (0x33, 0x200, 15666) := by decide

/-! ### Address register, timers, memory -/

/-- tvT1 -/
theorem test_ldI : (after s0 0xA300).map (fun t => (t.i, t.pc)) = some (0x300, 0x202) := by decide
/-- tvT2 -/
theorem test_ldVxDT : (after { s0 with dt := 0x1E } 0xF207).map (fun t => t.reg 2) = some 0x1E := by decide
/-- tvT3 -/
theorem test_ldDTVx : (after (regs s0 [(0, 3)]) 0xF015).map (fun t => (t.dt, t.st)) = some (3, 0) := by decide
/-- tvT4 -/
theorem test_ldSTVx : (after (regs s0 [(0, 3)]) 0xF018).map (fun t => (t.st, t.dt, t.tone)) = some (3, 0, false) := by decide
/-- tvT5 -/
theorem test_addI_past_memory : (after (regs { s0 with i := 0x0FFE } [(1, 5)]) 0xF11E).map (fun t => (t.i, t.reg 15)) =
    some (0x1003, 0) := by decide
/-- tvT6 -/
theorem test_addI_wraps : (after (regs { s0 with i := 0xFFFF } [(1, 2)]) 0xF11E).map State.i = some 0x0001 := by decide
/-- tvT7 -/
theorem test_ldF : (after (regs s0 [(0, 3)]) 0xF029).map State.i = some 0x05F := by decide
/-- tvT9 -/
theorem test_ldF_no_digit : told (regs s0 [(0, 0x10)]) 0xF029 =
    some ([.cycleFailed (.unspecified .fontDigit)], .idle, 0x200, 0, 16666) := by decide
/-- tvT10 -/
theorem test_ldB : (after (regs { s0 with i := 0x300 } [(0, 254)]) 0xF033).map
    (fun t => (t.readMem 0x300, t.readMem 0x301, t.readMem 0x302, t.i)) = some (2, 5, 4, 0x300) := by decide
/-- tvM6 -/
theorem test_ldB_past_the_end : told (regs { s0 with i := 0xFFE } [(0, 1)]) 0xF033 =
    some ([.cycleFailed (.unspecified .dataOob)], .idle, 0x200, 0, 16666) := by decide
/-- tvT12 -/
theorem test_dumpRegs : (after (regs { s0 with i := 0x400 } [(0, 0x11), (1, 0x22), (2, 0x33), (3, 0x44)]) 0xF255).map
    (fun t => (t.readMem 0x400, t.readMem 0x401, t.readMem 0x402, t.readMem 0x403, t.i)) =
    some (0x11, 0x22, 0x33, 0, 0x400) := by decide
/-- tvM10: the font is writable. -/
theorem test_dumpRegs_over_the_font : (after (regs { s0 with i := 0x50 } [(0, 0xAA)]) 0xF055).map
    (fun t => (t.readMem 0x50, t.readMem 0x51)) = some (0xAA, 0x90) := by decide
/-- tvT13 -/
theorem test_loadRegs : (after (atI (regs s0 [(3, 9)]) 0x300 [2, 5, 4, 7]) 0xF265).map
    (fun t => (t.reg 0, t.reg 1, t.reg 2, t.reg 3, t.i)) = some (2, 5, 4, 9, 0x300) := by decide
/-- tvT15: glyph 0 of the default font. -/
theorem test_loadRegs_from_the_font : (after { s0 with i := 0x50 } 0xF465).map
    (fun t => (t.reg 0, t.reg 1, t.reg 3, t.reg 4)) = some (0xF0, 0x90, 0x90, 0xF0) := by decide

/-! ### Fetch, frames, host operations -/

/-- tvM2 and tvM3. -/
theorem test_fetch_bounds :
    told { s0 with pc := 0x1000 } 0 = some ([.cycleFailed (.programCounterOutOfBounds 0x1000)], .idle, 0x1000, 0, 16666) ∧
      (told { s0 with pc := 0x0FFF } 0).map (·.1) = some [.cycleFailed (.unspecified .fetchStraddle)] := by decide
/-- tvM4 -/
theorem test_fetch_last_word : (after { s0 with pc := 0x0FFE } 0x6001).map (fun t => (t.reg 0, t.pc)) =
    some (1, 0x1000) := by decide
/-- tvF10's first iteration: an illegal word is not charged. -/
theorem test_illegal_word : told s0 0x5121 = some ([.cycleFailed (.unknownOpcode 0x5121)], .idle, 0x200, 0, 16666) := by
  decide
/-- tvF7's second frame: ST was exactly 1, so the tone is raised; the delay timer stays at 0. -/
theorem test_frame_start : (hosted { s0 with st := 1, budget := -334 } (.cycle 0x0480)).map
    (fun t => (t.st, t.dt, t.tone, t.budget, t.keyDown 7, t.keyDown 0)) = some (0, 0, true, 16332, true, false) := by decide
/-- tvF9: DT reaching 0 raises nothing. -/
theorem test_frame_start_delay : (hosted { s0 with dt := 1 } (.cycle 0)).map (fun t => (t.dt, t.st, t.tone)) =
    some (0, 0, false) := by decide
/-- tvF3: a budget of 0 ends the frame. -/
theorem test_frame_end : step { s0 with phase := .draining } = .next { s0 with replies := [.cycleDone] } := by rfl
/-- tvF7: a read clears the tone. -/
theorem test_tone_read : (hosted { s0 with tone := true } .toneRead).map (fun t => (t.replies, t.tone)) =
    some ([.tone true], false) := by decide
/-- tvF12 -/
theorem test_fb_read : hosted s0 .fbRead = some { s0 with replies := [.bitmap (Vector.replicate 256 0)] } := by rfl
/-- tvZ1 -/
theorem test_reset_op : (hosted { s0 with pc := 0x300, sp := 3, st := 5, tone := true, budget := 9 }
      (.reset [0x60, 0x01, 0x12, 0x02])).map
    (fun t => (t.readMem 0x200, t.readMem 0x203, t.readMem 0x50, t.pc, t.sp.val, t.budget)) =
    some (0x60, 0x02, 0xF0, 0x200, 0, 0) := by decide

/-! ### Witnesses: states and operands that meet the hypotheses of each statement that has some

Every clause of a statement has one, at the edge of its range where it has an edge. -/

/-- The next state of an instruction where there is one. -/
def nextOf (i : Instr) (s : State) : State :=
  match exec i s with
  | .next t => t
  | .fault _ => s
  | .refused _ => s

/-- The next state of a step where there is one. -/
def stepOf (s : State) : State :=
  match step s with
  | .next t => t
  | .fault _ => s
  | .refused _ => s

theorem aboutToRun_jp : AboutToRun (ready s0 0x1200) 0x1200 :=
  ⟨by decide, by decide, by decide, by decide⟩

/-- The hypotheses inside `StepRuns` (O3, O5, O21): a drain iteration whose instruction completes. -/
theorem witness_stepRuns :
    (AboutToRun (ready s0 0x1200) 0x1200 ∧ exec (.jp 0x200) (ready s0 0x1200) = .next (ready s0 0x1200) ∧
      (ready s0 0x1200).phase = .draining) ∧
    (AboutToRun (ready s0 0x3100) 0x3100 ∧ (nextOf (.seImm 1 0) (ready s0 0x3100)).phase = .draining) ∧
    (AboutToRun (ready s0 0x4100) 0x4100 ∧ (nextOf (.sneImm 1 0) (ready s0 0x4100)).phase = .draining) ∧
    (AboutToRun (ready s0 0xF10A) 0xF10A ∧ (nextOf (.ldVxK 1) (ready s0 0xF10A)).phase = .draining) := by
  unfold AboutToRun
  repeat' apply And.intro
  all_goals first | decide | rfl

/-- O1: the words of family 0 next to CLS and RET. -/
theorem witness_SysRaisesUnknownOpcode :
    ((0x0E1 : Addr12) ≠ 0x0E0 ∧ (0x0E1 : Addr12) ≠ 0x0EE ∧ AboutToRun (ready s0 0x00E1) (hexWordNnn 0 0x0E1)) ∧
      AboutToRun (ready s0 0x0000) (hexWordNnn 0 0x000) := by
  unfold AboutToRun; decide

/-- O2: an empty stack, one entry, a full stack. -/
theorem witness_RetPopsOrUnderflows :
    s0.sp.val = 0 ∧ 0 < ({ s0 with sp := 1 } : State).sp.val ∧ 0 < ({ s0 with sp := 16 } : State).sp.val := by decide

/-- O4 and O8: a full stack, the last free entry. -/
theorem witness_CallPushesOrOverflows :
    ({ s0 with sp := 16 } : State).sp.val = 16 ∧ ({ s0 with sp := 15 } : State).sp.val < 16 := by decide

/-- O8: a state that has come back to the stack the CALL left. -/
theorem witness_CallThenReturnComesBack :
    s0.sp.val < 16 ∧ exec (.call 0x300) s0 = .next (nextOf (.call 0x300) s0) ∧
      ({ nextOf (.call 0x300) s0 with pc := 0x310 } : State).stack = (nextOf (.call 0x300) s0).stack ∧
      ({ nextOf (.call 0x300) s0 with pc := 0x310 } : State).sp = (nextOf (.call 0x300) s0).sp := by
  repeat' apply And.intro
  all_goals first | decide | rfl

/-- O5: the byte and its neighbour. -/
theorem witness_ImmediateSkipsCompareWithTheByte :
    (regs s0 [(1, 0xFF)]).reg 1 = 0xFF ∧ (regs s0 [(1, 0xFE)]).reg 1 ≠ 0xFF := by decide

/-- O6 -/
theorem witness_RegisterSkipsCompareTwoRegisters :
    (regs s0 [(3, 7), (4, 7)]).reg 3 = (regs s0 [(3, 7), (4, 7)]).reg 4 ∧
      (regs s0 [(3, 7), (4, 8)]).reg 3 ≠ (regs s0 [(3, 7), (4, 8)]).reg 4 := by decide

/-- The destination clause of `WritesRegThenFlag` (O11, O12, O13): a destination that is not VF, next to VF. -/
theorem witness_WritesRegThenFlag : (14 : Reg) ≠ 15 := by decide

/-- O13: a byte that is the flag source, for each `SHIFT_FLAG_SRC`. -/
theorem witness_ShiftsTakeVyAndSetTheShiftedOutBit :
    (s0.cfg.shiftFlagSrc = .vy ∧ (regs s0 [(2, 0x81)]).reg 2 = 0x81) ∧
      (s0vx.cfg.shiftFlagSrc = .vx ∧ (regs s0vx [(1, 0x81)]).reg 1 = 0x81) := by decide

/-- O15: a flag writer that changes VF, a DRW that raises, a named destination that changes VF. -/
theorem witness_OnlySixInstructionsClobberVF :
    (exec (.addReg 1 2) (regs s0 [(1, 0xFF), (2, 1)]) = .next (nextOf (.addReg 1 2) (regs s0 [(1, 0xFF), (2, 1)])) ∧
      (nextOf (.addReg 1 2) (regs s0 [(1, 0xFF), (2, 1)])).reg 15 ≠ (regs s0 [(1, 0xFF), (2, 1)]).reg 15 ∧
      (Instr.addReg 1 2).variant ∈ [Variant.ADD_VX_VY, .SUB_VX_VY, .SUBN_VX_VY, .SHR_VX_VY, .SHL_VX_VY, .DRW_VX_VY_N]) ∧
    ((Instr.drw 1 2 2).variant = .DRW_VX_VY_N ∧
      exec (.drw 1 2 2) { regs s0 [(15, 7)] with i := 0xFFF } =
        .next (State.takeError { regs s0 [(15, 7)] with i := 0xFFF } (.unspecified .dataOob))) ∧
    (exec (.ldImm 15 7) s0 = .next (nextOf (.ldImm 15 7) s0) ∧ (nextOf (.ldImm 15 7) s0).reg 15 ≠ s0.reg 15) := by
  repeat' apply And.intro
  all_goals first | decide | rfl

/-- O17: the last byte past memory, no byte at all, the last byte in memory; a sprite pixel on a lit one, and none. -/
theorem witness_DrwTogglesExactlyTheSpritePixels :
    (0 < (3 : Height).val ∧ s0.cfg.memSize ≤ ({ s0 with i := 0xFFE } : State).effAddr ((3 : Height).val - 1)) ∧
    ((0 : Height).val = 0) ∧
    (({ s0 with i := 0xFFE } : State).effAddr ((2 : Height).val - 1) < s0.cfg.memSize) ∧
    (pix (s0.fb.set 0 0x80) 0 0 = true ∧ pix s0.fb 0 0 = false) := by decide

/-- O17 and O19: the sprite does cover the pixel. -/
theorem witness_SpriteCovers : SpriteCovers (atI s0 0x300 [0x80]) 0 0 1 0 0 :=
  ⟨0, 0, by decide, by decide, by decide, by decide, by decide⟩

/-- O19: no sprite byte, and the last sprite byte at the end of memory; a sprite that is not zero on a dark framebuffer. -/
theorem witness_DrawingTwiceRestoresThePixels :
    (1 : Reg) ≠ 15 ∧ (2 : Reg) ≠ 15 ∧ ((0 : Height).val = 0) ∧
      (atI s0 0xFFF [0x80]).effAddr ((1 : Height).val - 1) < (atI s0 0xFFF [0x80]).cfg.memSize ∧
      (atI s0 0xFFF [0x80]).fb = Vector.replicate 256 0 ∧ 0 < (1 : Height).val ∧
      (atI s0 0xFFF [0x80]).readMem ((atI s0 0xFFF [0x80]).effAddr 0) ≠ 0 :=
  ⟨by decide, by decide, by decide, by decide, rfl, by decide, by decide⟩

/-- O20: the first code that is none; the last key down; the last key up. -/
theorem witness_KeySkipsTestOneKey :
    0x10 ≤ ((regs s0 [(2, 0x10)]).reg 2).toNat ∧ ((regs s0 [(2, 0x0F)]).reg 2).toNat < 0x10 ∧
      (key s0 15).keys[15] = true ∧ s0.keys[15] = false := by decide

/-- O21: key 0 is the lowest, key 15 alone is the lowest, no key is down. -/
theorem witness_KeyWaitTakesTheLowestKeyOrPolls :
    ((key s0 0).keys[0] = true ∧ ∀ j : Fin 16, j < 0 → (key s0 0).keys[j.val] = false) ∧
    ((key s0 15).keys[15] = true ∧ ∀ j : Fin 16, j < 15 → (key s0 15).keys[j.val] = false) ∧
    (∀ k : Fin 16, s0.keys[k.val] = false) := by decide

/-- O23: the last digit, the first value that is none. -/
theorem witness_LdFPointsAtTheGlyph :
    ((regs s0 [(0, 0x0F)]).reg 0).toNat ≤ 0x0F ∧ 0x0F < ((regs s0 [(0, 0x10)]).reg 0).toNat := by decide

/-- O25: the third byte just past memory, just in it, in a canonical memory. -/
theorem witness_LdBStoresDecimalDigits :
    s0.cfg.memSize ≤ ({ s0 with i := 0xFFE } : State).effAddr 2 ∧
      ({ s0 with i := 0xFFD } : State).effAddr 2 < s0.cfg.memSize ∧ s0.mem.wf s0.cfg = true := by decide

/-- O26, O27, O28, O29: the last register's byte just past memory, just in it, in a canonical memory. -/
theorem witness_blocks :
    s0.cfg.memSize ≤ ({ s0 with i := 0xFFF } : State).effAddr (1 : Reg).val ∧
      ({ s0 with i := 0xFFE } : State).effAddr (1 : Reg).val < s0.cfg.memSize ∧ 1 ≤ (1 : Reg).val ∧
      MemOk { s0 with i := 0xFFE } := by
  unfold MemOk; decide

/-- O28 and O29: a state over the memory a dump has left. -/
theorem witness_DumpThenLoadGivesTheRegistersBack :
    exec (.dumpRegs 1) { s0 with i := 0xFFE } = .next (nextOf (.dumpRegs 1) { s0 with i := 0xFFE }) ∧
      ({ nextOf (.dumpRegs 1) { s0 with i := 0xFFE } with pc := 0xFFE } : State).mem =
        (nextOf (.dumpRegs 1) { s0 with i := 0xFFE }).mem ∧
      ({ nextOf (.dumpRegs 1) { s0 with i := 0xFFE } with pc := 0xFFE } : State).cfg = s0.cfg ∧
      ({ nextOf (.dumpRegs 1) { s0 with i := 0xFFE } with pc := 0xFFE } : State).pc = 0xFFE := by
  repeat' apply And.intro
  all_goals first | decide | rfl

/-- O30 and O31 -/
theorem witness_DecodeOfEncodeIsTheInstruction :
    (Instr.drw 1 2 0xA).wf = true ∧ decodeWord 0xD12A = .ok (.drw 1 2 0xA) := by decide

/-- O33: one illegal word of each family that has some, and a legal word. -/
theorem witness_DecoderRefusesExactlyTheIllegalWords :
    IllegalWord 0x5001 ∧ IllegalWord 0x900F ∧ IllegalWord 0x8008 ∧ IllegalWord 0x800F ∧ IllegalWord 0xE09F ∧
      IllegalWord 0xF064 ∧ ¬ IllegalWord 0x5000 := by
  unfold IllegalWord
  refine ⟨?_, ?_, ?_, ?_, ?_, ?_, ?_⟩ <;> decide

/-- O35: an instruction that goes on, one that raises an error of the source, one that raises Unspecified. -/
theorem witness_StepRunsTheDecodedInstruction :
    ((ready s0 0x1200).phase = .draining ∧ 0 < (ready s0 0x1200).budget ∧
      (ready s0 0x1200).pc.toNat + 1 < (ready s0 0x1200).cfg.memSize ∧
      decodeWord (BitVec.ofNat 16 (((ready s0 0x1200).readMem 0x200).toNat * 256 + ((ready s0 0x1200).readMem 0x201).toNat)) =
        .ok (.jp 0x200) ∧ (nextOf (.jp 0x200) (ready s0 0x1200)).phase = .draining) ∧
    (decodeWord (ready s0 0x0000).fetchWord = .ok (.sys 0) ∧ (nextOf (.sys 0) (ready s0 0x0000)).phase = .idle) ∧
    (decodeWord (ready (regs s0 [(2, 0x10)]) 0xE29E).fetchWord = .ok (.skp 2) ∧
      (nextOf (.skp 2) (ready (regs s0 [(2, 0x10)]) 0xE29E)).phase = .idle) := by decide

/-- O36 -/
theorem witness_IllegalWordAbortsTheCycle :
    AboutToRun (ready s0 0x5001) 0x5001 ∧ IllegalWord 0x5001 := by
  unfold AboutToRun IllegalWord; decide

/-- O37: the two addresses at the end of memory. -/
theorem witness_FetchChecksTheBounds :
    (ready { s0 with pc := 0x1000 } 0).phase = .draining ∧ 0 < (ready { s0 with pc := 0x1000 } 0).budget ∧
      s0.cfg.memSize ≤ (ready { s0 with pc := 0x1000 } 0).pc.toNat ∧
      (ready { s0 with pc := 0xFFF } 0).pc.toNat + 1 = s0.cfg.memSize := by decide

/-- O38 and O39: a step that reports an error. -/
theorem witness_ErrorsArePrecise :
    (ready s0 0x0000).phase = .draining ∧ 0 < (ready s0 0x0000).budget ∧
      step (ready s0 0x0000) = .next (stepOf (ready s0 0x0000)) ∧
      (stepOf (ready s0 0x0000)).replies = .cycleFailed (.unknownOpcode 0) :: (ready s0 0x0000).replies := by
  repeat' apply And.intro
  all_goals first | decide | rfl

/-- O40 and O59: each of the four Unspecified tags is reported, and the errors of the source; the word of the last is illegal. -/
theorem witness_EveryStepAnswersAndErrorsHaveTheirCause :
    told { s0 with pc := 0x1000 } 0 = some ([.cycleFailed (.programCounterOutOfBounds 0x1000)], .idle, 0x1000, 0, 16666) ∧
      (told { s0 with pc := 0x0FFF } 0).map (·.1) = some [.cycleFailed (.unspecified .fetchStraddle)] ∧
      (told { s0 with i := 0xFFF } 0xF155).map (·.1) = some [.cycleFailed (.unspecified .dataOob)] ∧
      (told (regs s0 [(2, 0x10)]) 0xE2A1).map (·.1) = some [.cycleFailed (.unspecified .keyIndex)] ∧
      (told (regs s0 [(0, 0x10)]) 0xF029).map (·.1) = some [.cycleFailed (.unspecified .fontDigit)] ∧
      (told s0 0x5001).map (·.1) = some [.cycleFailed (.unknownOpcode 0x5001)] := by decide

/-- O59: the step that reports Unspecified. -/
theorem witness_UnspecifiedIsReportedLikeTheOtherErrors :
    step (ready (regs s0 [(2, 0x10)]) 0xE29E) = .next (stepOf (ready (regs s0 [(2, 0x10)]) 0xE29E)) ∧
      (stepOf (ready (regs s0 [(2, 0x10)]) 0xE29E)).replies =
        .cycleFailed (.unspecified .keyIndex) :: (ready (regs s0 [(2, 0x10)]) 0xE29E).replies :=
  ⟨rfl, by decide⟩

/-- O41: ST exactly 1, and not. -/
theorem witness_FrameStartTicksThenAddsTheFrame :
    ({ s0 with calls := [.cycle 0] } : State).phase = .idle ∧ ({ s0 with calls := [.cycle 0], st := 1 } : State).st = 1 ∧
      ({ s0 with calls := [.cycle 0], st := 2 } : State).st ≠ 1 := by decide

/-- O42: the budget at 0. -/
theorem witness_DrainLoopEndsWithTheBudget :
    ({ s0 with phase := .draining } : State).phase = .draining ∧ ({ s0 with phase := .draining } : State).budget ≤ 0 := by
  decide

/-- O43 and O46 -/
theorem witness_HostReadsReturnTheirValue :
    s0.phase = .idle ∧ s0.calls = [] ∧ ({ s0 with calls := [.fbRead] } : State).calls = .fbRead :: [] ∧
      ({ s0 with calls := [.toneRead] } : State).calls = .toneRead :: [] := by decide

/-- A state whose host calls RESET next, with a program of `n` zero bytes. -/
def resetting (n : Nat) : State := { s0 with calls := [.reset (List.replicate n 0)] }

/-- O44: a host that calls RESET with the longest program that fits, and with one byte more (tvS2). -/
theorem witness_ResetLoadsTheProgramOrRefusesIt :
    ((resetting 3584).phase = .idle ∧ (resetting 3584).calls = .reset (List.replicate 3584 0) :: [] ∧
      (List.replicate 3584 (0 : Byte)).length ≤ (resetting 3584).cfg.memSize - 0x200) ∧
    ((resetting 3585).phase = .idle ∧ (resetting 3585).calls = .reset (List.replicate 3585 0) :: [] ∧
      (resetting 3585).cfg.memSize - 0x200 < (List.replicate 3585 (0 : Byte)).length) := by
  simp only [List.length_replicate]
  exact ⟨⟨rfl, rfl, by decide⟩, rfl, rfl, by decide⟩

/-- O47: each part is changed by an instruction that may. -/
theorem witness_InstructionsWriteOnlyTheirOwnState :
    (nextOf (.drw 1 2 1) (atI s0 0x300 [0x80])).fb ≠ s0.fb ∧ (nextOf (.call 0x300) s0).stack ≠ s0.stack ∧
      (nextOf (.call 0x300) s0).sp ≠ s0.sp ∧ (nextOf (.ldDTVx 0) (regs s0 [(0, 3)])).dt ≠ s0.dt ∧
      (nextOf (.ldSTVx 0) (regs s0 [(0, 3)])).st ≠ s0.st ∧ (nextOf (.ldI 0x300) s0).i ≠ s0.i ∧
      (nextOf (.ldB 0) (regs { s0 with i := 0x300 } [(0, 3)])).mem ≠ s0.mem :=
  ⟨fun h => absurd (congrArg (fun fb : Framebuffer => fb[0]) h) (by decide), by decide, by decide, by decide, by decide,
    by decide, by decide⟩

/-- O48 -/
theorem witness_InstructionsCannotSeeHiddenState :
    exec (.ldSTVx 0) s0 = .next (nextOf (.ldSTVx 0) s0) ∧ (Instr.ldSTVx 0).variant = .LD_ST_VX ∧
      exec (.ldI 0) s0 = .next (nextOf (.ldI 0) s0) ∧ (Instr.ldI 0).variant ≠ .LD_ST_VX := by
  repeat' apply And.intro
  all_goals first | decide | rfl

/-- O49: each is moved by the host and by its instruction. -/
theorem witness_KeysAndTimersMoveOnlyAtFrameStartsOrReset :
    (stepOf { s0 with calls := [.cycle 1] }).keys ≠ s0.keys ∧
      (stepOf { key s0 3 with calls := [.reset []] }).keys ≠ (key s0 3).keys ∧
      (stepOf { s0 with calls := [.reset []], dt := 1 }).dt ≠ 1 ∧
      (stepOf { s0 with calls := [.cycle 1], dt := 1 }).dt ≠ 1 ∧
      (stepOf { s0 with calls := [.cycle 1], st := 1 }).st ≠ 1 ∧ (stepOf (ready (regs s0 [(0, 3)]) 0xF015)).dt ≠ 0 ∧
      (stepOf (ready (regs s0 [(0, 3)]) 0xF018)).st ≠ 0 := by decide

/-- O50: the flag rises and falls. -/
theorem witness_ToneIsSetByTheTickAndClearedByTheHost :
    (s0.tone = false ∧ (stepOf { s0 with calls := [.cycle 0], st := 1 }).tone = true) ∧
      (stepOf { s0 with calls := [.toneRead], tone := true }).tone = false ∧
      (stepOf { s0 with calls := [.reset []], tone := true }).tone = false := by decide

/-- O51 and O52: a step that answers next, from a canonical memory, storing. -/
theorem witness_StepKeepsMemoryCanonical :
    MemOk (ready { s0 with i := 0x50 } 0xF055) ∧
      step (ready { s0 with i := 0x50 } 0xF055) = .next (stepOf (ready { s0 with i := 0x50 } 0xF055)) := by
  unfold MemOk
  repeat' apply And.intro
  all_goals first | decide | rfl

/-- O54: canonical memories that read alike. -/
theorem witness_CanonicalMemoriesThatReadAlikeAreEqual :
    Memory.wf s0.cfg [(0x300, 1)] = true ∧ ∀ a, Memory.read s0.cfg [(0x300, 1)] a = Memory.read s0.cfg [(0x300, 1)] a :=
  ⟨by decide, fun _ => rfl⟩

/-- O55: a state within the bounds, no error so far, and a step from it. -/
theorem witness_StepKeepsTheBudgetBounds :
    NoErrorYet (ready s0 0x1200) ∧ BudgetInv (ready s0 0x1200) ∧
      step (ready s0 0x1200) = .next (stepOf (ready s0 0x1200)) := by
  refine ⟨fun e h => ?_, fun _ => ⟨?_, ?_, fun h => ?_⟩, rfl⟩
  · cases h
  · decide
  · decide
  · cases h

/-- O57 -/
theorem witness_CycleAlwaysReturns : (ready s0 0x1200).phase = .draining := by decide

/-- O58: two steps of a frame that goes on, every cost 1000. -/
theorem witness_UniformCostFixesTheInstructionCount :
    (ready s0 0x1200).phase = .draining ∧ (ready s0 0x1200).calls = [] ∧
      (∀ v, (ready s0 0x1200).cfg.cost v = 1000) ∧
      RunsTo 2 (ready s0 0x1200) (stepOf (stepOf (ready s0 0x1200))) ∧
      (stepOf (stepOf (ready s0 0x1200))).phase = .draining := by
  refine ⟨by decide, by decide, fun v => ?_, ?_, by decide⟩
  · cases v <;> decide
  · rfl

/-- O58: a state whose budget one instruction uses up exactly, and one where a microsecond is left. -/
theorem witness_UniformCost_ends :
    ((1000 : Int) ≤ (1 : Nat) * (1000 : Nat) ∧ (stepOf { ready s0 0x1200 with budget := 1000 }).phase = .draining ∧
      (stepOf { ready s0 0x1200 with budget := 1000 }).budget = 0) ∧
    (¬ (1001 : Int) ≤ (1 : Nat) * (1000 : Nat) ∧ (stepOf { ready s0 0x1200 with budget := 1001 }).budget = 1) := by decide

end Sys2Proof.Machine.Tests
end

/-! The state family: what each instruction and each step may change, and the reset table. First the inversion of `exec` by
the parts of the machine an instruction writes, which the claims about single fields cite. -/

namespace Sys2Proof.Machine

/-- The instruction writes one general register and no flag, and `x` is that register. -/
def LoadsReg (i : Instr) (x : Reg) : Prop :=
  (∃ kk, i = .ldImm x kk ∨ i = .addImm x kk ∨ i = .rnd x kk) ∨
    (∃ y, i = .ldReg x y ∨ i = .orReg x y ∨ i = .andReg x y ∨ i = .xorReg x y) ∨ i = .ldVxDT x ∨ i = .ldVxK x

/-- The next states an instruction can have, by the parts of the machine it writes besides `pc`, each with the instructions
that write it. Most written values are left open. -/
inductive Effect (i : Instr) (s : State) : State → Prop
  /-- An error is taken, and nothing of the instruction happens (R212). -/
  | raised (e : FatalError) (he : CanRaise i e) : Effect i s (s.takeError e)
  /-- Only `pc` is written: a jump, a skip, a wait for a key. -/
  | goes (a : Word) (hi : i.variant ∈ [.JP, .SE_VX_KK, .SNE_VX_KK, .SE_VX_VY, .SNE_VX_VY, .JP_V0_NNN, .SKP_VX, .SKNP_VX,
      .LD_VX_K]) : Effect i s (s.setPc a)
  /-- One general register (R121 to R126, R132, R153, R161); a draw is counted by RND alone. -/
  | reg (x : Reg) (b : Byte) (n : Nat) (hi : LoadsReg i x) : Effect i s ({ s with draws := n }.setReg x b).advance
  /-- A general register, then VF (R120). -/
  | flag (x : Reg) (b : Byte) (f : Bool) (hi : i.variant ∈ [.ADD_VX_VY, .SUB_VX_VY, .SUBN_VX_VY, .SHR_VX_VY, .SHL_VX_VY]) :
      Effect i s (s.setRegFlag x b f).advance
  /-- The framebuffer, then VF (R141). -/
  | draw (cv : Canvas) (hi : i.variant = .DRW_VX_VY_N) : Effect i s (s.setCanvas cv).advance
  /-- The framebuffer (R140). -/
  | clear (hi : i.variant = .CLS) : Effect i s { s with fb := Vector.replicate 256 0 }.advance
  /-- A push (R104). -/
  | push (entries : Vector Word 16) (sp : Fin 17) (a : Word) (hi : i.variant = .CALL) :
      Effect i s ({ s with stack := entries, sp := sp }.setPc a)
  /-- A pop (R102). -/
  | pop (sp : Fin 17) (a : Word) (hi : i.variant = .RET) : Effect i s ({ s with sp := sp }.setPc a)
  /-- The delay timer (R162). -/
  | delay (b : Byte) (hi : i.variant = .LD_DT_VX) : Effect i s { s with dt := b }.advance
  /-- The sound timer (R163). -/
  | sound (b : Byte) (hi : i.variant = .LD_ST_VX) : Effect i s { s with st := b }.advance
  /-- `I` (R160, R164, R165). -/
  | index (a : Word) (hi : i.variant ∈ [.LD_I_NNN, .ADD_I_VX, .LD_F_VX]) : Effect i s { s with i := a }.advance
  /-- Memory (R166, R167). -/
  | store (bs : List Byte) (hi : i.variant ∈ [.LD_B_VX, .LD_I_VX]) : Effect i s (s.writeAtI bs).advance
  /-- The registers up to `x` (R168). -/
  | load (x : Reg) (hi : i = .loadRegs x) : Effect i s (s.loadBlock x).advance

/-- Every next state of `exec` is one of the effects of its instruction. -/
theorem exec_effect {i : Instr} {s t : State} (h : exec i s = .next t) : Effect i s t := by
  cases i with
  | cls => cases h; exact .clear rfl
  | ret =>
    rcases Nat.eq_zero_or_pos s.sp.val with hsp | hsp
    · simp only [exec, execRet, (State.pop_eq_none s).2 hsp] at h
      cases h; exact .raised _ rfl
    · simp only [exec, execRet, State.pop_eq_some s hsp] at h
      cases h; exact .pop _ _ rfl
  | sys nnn => cases h; exact .raised _ ⟨rfl, rfl⟩
  | call nnn =>
    rcases Nat.lt_or_ge s.sp.val 16 with hsp | hsp
    · simp only [exec, execCall, State.push_eq_some s _ hsp] at h
      cases h; exact .push _ _ _ rfl
    · have hfull : s.sp.val = 16 := by omega
      simp only [exec, execCall, (State.push_eq_none s _).2 hfull] at h
      cases h; exact .raised _ rfl
  | jp | seImm | sneImm | seReg | sneReg | jpV0 => cases h; exact .goes _ (by simp [Instr.variant])
  | ldImm x kk | addImm x kk => cases h; exact .reg x _ s.draws (.inl ⟨kk, by simp⟩)
  | rnd x kk => cases h; exact .reg x _ (s.draws + 1) (.inl ⟨kk, by simp⟩)
  | ldReg x y | orReg x y | andReg x y | xorReg x y => cases h; exact .reg x _ s.draws (.inr (.inl ⟨y, by simp⟩))
  | ldVxDT x => cases h; exact .reg x _ s.draws (.inr (.inr (.inl rfl)))
  | ldVxK x =>
    simp only [exec, execLdVxK] at h
    split at h <;> cases h
    · exact .reg x _ s.draws (.inr (.inr (.inr rfl)))
    · exact .goes s.pc (by simp [Instr.variant])
  | addReg | sub | shr | subn | shl => cases h; exact .flag _ _ _ (by simp [Instr.variant])
  | skp | sknp =>
    simp only [exec, execSkp, execSknp] at h
    split at h <;> cases h
    · exact .goes _ (by simp [Instr.variant])
    · exact .raised _ (by simp [CanRaise, Instr.variant])
  | drw =>
    simp only [exec, execDrw] at h
    split at h <;> cases h
    · exact .draw _ rfl
    · exact .raised _ (by simp [CanRaise, Instr.variant])
  | ldDTVx => cases h; exact .delay _ rfl
  | ldSTVx => cases h; exact .sound _ rfl
  | ldI | addI => cases h; exact .index _ (by simp [Instr.variant])
  | ldF =>
    simp only [exec, execLdF] at h
    split at h <;> cases h
    · exact .index _ (by simp [Instr.variant])
    · exact .raised _ rfl
  | ldB | dumpRegs =>
    simp only [exec, execLdB, execDumpRegs] at h
    split at h <;> cases h
    · exact .store _ (by simp [Instr.variant])
    · exact .raised _ (by simp [CanRaise, Instr.variant])
  | loadRegs x =>
    simp only [exec, execLoadRegs] at h
    split at h <;> cases h
    · exact .load x rfl
    · exact .raised _ (by simp [CanRaise, Instr.variant])


/-! ### VF -/

theorem flagByte_eq (f : Bool) : flagByte f = 0 ∨ flagByte f = 1 := by cases f <;> decide

/-- Taking an error is what `Raised` says (R211, R212). -/
theorem raised_takeError (s : State) (e : FatalError) : Raised s (s.takeError e) e := ⟨rfl, fun _ _ => rfl, fun _ => rfl⟩

/-- Only a flag writer, or an instruction whose destination is VF, changes VF (R22). -/
theorem Effect.of_vf_ne {i : Instr} {s t : State} (h : Effect i s t) (hne : t.reg 15 ≠ s.reg 15) :
    i.variant ∈ [.ADD_VX_VY, .SUB_VX_VY, .SUBN_VX_VY, .SHR_VX_VY, .SHL_VX_VY, .DRW_VX_VY_N] ∨
      LoadsReg i 15 ∨ i = .loadRegs 15 := by
  cases h with
  | flag x b f hi => exact .inl (List.mem_append_left [Variant.DRW_VX_VY_N] hi)
  | draw cv hi => simp [hi]
  | reg x b n hi =>
    rw [State.reg_advance, State.reg_setReg] at hne
    have hx : 15 = x := by_contra fun hx => hne (if_neg hx)
    exact .inr (.inl (hx ▸ hi))
  | load x hi =>
    rw [State.reg_advance, State.reg_loadBlock] at hne
    have hle : 15 ≤ x := by_contra fun hx => hne (if_neg hx)
    have hx : x = 15 := le_antisymm (Fin.le_last x) hle
    exact .inr (.inr (hx ▸ hi))
  | _ => exact absurd rfl hne

/-- A flag writer leaves a flag in VF, but for a DRW that raises (R22, R141). -/
theorem vf_of_flagWriter {i : Instr} {s t : State} (h : exec i s = .next t)
    (hi : i.variant ∈ [.ADD_VX_VY, .SUB_VX_VY, .SUBN_VX_VY, .SHR_VX_VY, .SHL_VX_VY, .DRW_VX_VY_N]) :
    t.reg 15 = 0 ∨ t.reg 15 = 1 ∨ i.variant = .DRW_VX_VY_N ∧ Raised s t (.unspecified .dataOob) := by
  cases i with
  | addReg | sub | shr | subn | shl =>
    cases h
    rw [State.reg_advance, State.reg_setRegFlag, if_pos rfl]
    exact (flagByte_eq _).imp_right .inl
  | drw =>
    simp only [exec, execDrw] at h
    split at h <;> cases h
    · rw [State.reg_advance, State.reg_setCanvas, if_pos rfl]
      exact (flagByte_eq _).imp_right .inl
    · exact .inr (.inr ⟨rfl, raised_takeError s _⟩)
  | _ => simp [Instr.variant] at hi

/-- Settles O15: the effects that reach VF are the flag writers', the one-register writers' and the block load's. -/
theorem onlySixInstructionsClobberVF : Obligations.OnlySixInstructionsClobberVF := by
  intro i s t h
  refine ⟨fun hne => ?_, vf_of_flagWriter h⟩
  rcases (exec_effect h).of_vf_ne hne with hi | (hkk | hy | hdt | hk) | hl
  · exact .inl hi
  · exact .inr (.inl hkk)
  · exact .inr (.inr (.inl hy))
  · exact .inr (.inr (.inr (.inl hdt)))
  · exact .inr (.inr (.inr (.inr (.inl hk))))
  · exact .inr (.inr (.inr (.inr (.inr hl))))

/-! ### The access matrix -/

/-- No instruction reaches what a program cannot see, whether or not it raises (R38). -/
theorem exec_keeps_hidden {i : Instr} {s t : State} (h : exec i s = .next t) :
    t.keys = s.keys ∧ t.tone = s.tone ∧ t.budget = s.budget ∧ t.cfg = s.cfg ∧ t.calls = s.calls := by
  rcases exec_next_cases h with ⟨e, -, rfl⟩ | hk
  · exact ⟨rfl, rfl, rfl, rfl, rfl⟩
  · exact ⟨hk.keys, hk.tone, hk.budget, hk.cfg, hk.calls⟩

/-- Settles O47: one column of R38 after another, read off the effects. -/
theorem instructionsWriteOnlyTheirOwnState : Obligations.InstructionsWriteOnlyTheirOwnState := by
  intro i s t h
  have heff := exec_effect h
  refine ⟨fun hfb => ?_, fun hstack => ?_, fun hsp => ?_, fun hdt => ?_, fun hst => ?_, fun hidx => ?_, fun hmem => ?_,
    exec_keeps_hidden h⟩
  · cases heff with
    | draw cv hi | clear hi => simp [hi]
    | _ => exact absurd rfl hfb
  · cases heff with
    | push entries sp a hi => exact hi
    | _ => exact absurd rfl hstack
  · cases heff with
    | push entries sp a hi | pop sp a hi => simp [hi]
    | _ => exact absurd rfl hsp
  · cases heff with
    | delay b hi => exact hi
    | _ => exact absurd rfl hdt
  · cases heff with
    | sound b hi => exact hi
    | _ => exact absurd rfl hst
  · cases heff with
    | index a hi => exact hi
    | _ => exact absurd rfl hidx
  · cases heff with
    | store bs hi => exact hi
    | _ => exact absurd rfl hmem

/-! ### Hidden state -/

/-- The state with another ST, tone flag, budget and host: what no instruction reads (R28, R29, R33, R38). -/
def State.withHidden (s : State) (tn : Bool) (b : Int) (cs : List HostOp) (st' : Byte) : State :=
  { s with tone := tn, budget := b, calls := cs, st := st' }

/-- An outcome with its next state changed by `f`. -/
def mapNext (f : State → State) : Host.Outcome State Fault Refusal → Host.Outcome State Fault Refusal
  | .next t => .next (f t)
  | .fault r => .fault r
  | .refused r => .refused r

section
variable (s : State) (tn : Bool) (b : Int) (cs : List HostOp) (st' : Byte)

@[simp] theorem State.reg_withHidden (x : Reg) : (s.withHidden tn b cs st').reg x = s.reg x := rfl
@[simp] theorem State.lowestKey_withHidden : (s.withHidden tn b cs st').lowestKey = s.lowestKey := rfl

theorem State.push_withHidden (a : Word) :
    (s.withHidden tn b cs st').push a = (s.push a).map (·.withHidden tn b cs st') := by
  rcases Nat.lt_or_ge s.sp.val 16 with h | h
  · rw [State.push_eq_some s a h]
    exact State.push_eq_some (s.withHidden tn b cs st') a h
  · have hfull : s.sp.val = 16 := by omega
    rw [(State.push_eq_none s a).2 hfull]
    exact (State.push_eq_none (s.withHidden tn b cs st') a).2 hfull

theorem State.pop_withHidden :
    (s.withHidden tn b cs st').pop = s.pop.map fun p => (p.1, p.2.withHidden tn b cs st') := by
  rcases Nat.eq_zero_or_pos s.sp.val with h | h
  · rw [(State.pop_eq_none s).2 h]
    exact (State.pop_eq_none (s.withHidden tn b cs st')).2 h
  · rw [State.pop_eq_some s h]
    exact State.pop_eq_some (s.withHidden tn b cs st') h

/-- Every instruction but LD ST does the same whatever the hidden state is, and leaves that as it is: the branching
instructions branch on registers, keys, `I` and the stack alone. -/
theorem exec_withHidden {i : Instr} (hi : i.variant ≠ .LD_ST_VX) :
    exec i (s.withHidden tn b cs st') = mapNext (·.withHidden tn b cs st') (exec i s) := by
  cases i with
  | ldSTVx => exact absurd rfl hi
  | ret =>
    simp only [exec, execRet, State.pop_withHidden]
    cases s.pop <;> rfl
  | call nnn =>
    simp only [exec, execCall]
    have hpc : (s.withHidden tn b cs st').pc = s.pc := rfl
    rw [hpc, State.push_withHidden]
    cases s.push (s.pc + 2) <;> rfl
  | skp x | sknp x | ldF x =>
    simp only [exec, execSkp, execSknp, execLdF, State.reg_withHidden]
    cases hexDigit (s.reg x) <;> rfl
  | ldVxK x =>
    simp only [exec, execLdVxK, State.lowestKey_withHidden]
    cases s.lowestKey <;> rfl
  | drw | ldB | dumpRegs | loadRegs =>
    simp only [exec, execDrw, execLdB, execDumpRegs, execLoadRegs]
    rw [apply_ite (mapNext _)]
    rfl
  | _ => rfl

end

/-- Settles O48: every instruction commutes with a change of the hidden state; LD ST overwrites the ST it was given. -/
theorem instructionsCannotSeeHiddenState : Obligations.InstructionsCannotSeeHiddenState := by
  intro i s t tn b cs st' h
  by_cases hi : i.variant = .LD_ST_VX
  · obtain ⟨x, rfl⟩ : ∃ x, i = .ldSTVx x := by
      cases i with
      | ldSTVx x => exact ⟨x, rfl⟩
      | _ => cases hi
    cases h
    exact ⟨_, rfl, rfl, fun hne => absurd rfl hne, fun _ => rfl⟩
  · refine ⟨t.withHidden tn b cs st', ?_, rfl, fun _ => rfl, fun heq => absurd heq hi⟩
    exact (exec_withHidden s tn b cs st' hi).trans (congrArg (mapNext _) h)

/-! ### Steps -/

/-- The next states of a drain step: the end of the frame, an error taken, or an instruction run and charged (R186, R187). -/
theorem step_draining_cases {s t : State} (hp : s.phase = .draining) (h : step s = .next t) :
    (s.budget ≤ 0 ∧ t = s.endFrame) ∨ (∃ e, t = s.takeError e) ∨
      ∃ i u, AboutToRun s s.fetchWord ∧ decodeWord s.fetchWord = .ok i ∧ exec i s = .next u ∧ Keeps s u ∧
        t = u.charge i.variant := by
  rcases step_cases s with ⟨hidle, -⟩ | ⟨-, hb, hx⟩ | ⟨-, -, -, hx⟩ | ⟨-, -, -, hx⟩ | ⟨hrun, hx⟩
  · cases hp.symm.trans hidle
  · cases hx.symm.trans h; exact .inl ⟨hb, rfl⟩
  · cases hx.symm.trans h; exact .inr (.inl ⟨_, rfl⟩)
  · cases hx.symm.trans h; exact .inr (.inl ⟨_, rfl⟩)
  · rcases runWord_cases s s.fetchWord with ⟨e, -, hr⟩ | ⟨i, hi, hr⟩
    · cases (hx.trans hr).symm.trans h; exact .inr (.inl ⟨_, rfl⟩)
    · rw [hx, hr] at h
      rcases exec_cases i s with ⟨e, -, hu⟩ | ⟨u, hu, hk⟩ <;> rw [hu] at h <;> cases h
      · exact .inr (.inl ⟨e, State.charge_idle _ _ rfl⟩)
      · exact .inr (.inr ⟨i, u, hrun, hi, hu, hk, rfl⟩)

/-- A step of the drain loop keeps what belongs to the host and the frame start, whatever it runs or raises (R38, R187). -/
theorem step_keeps_of_draining {s t : State} (hp : s.phase = .draining) (h : step s = .next t) :
    t.keys = s.keys ∧ t.tone = s.tone ∧ t.cfg = s.cfg ∧ t.calls = s.calls := by
  rcases step_draining_cases hp h with ⟨-, rfl⟩ | ⟨e, rfl⟩ | ⟨i, u, -, -, -, hk, rfl⟩
  · exact ⟨rfl, rfl, rfl, rfl⟩
  · exact ⟨rfl, rfl, rfl, rfl⟩
  · simp [hk.keys, hk.tone, hk.cfg, hk.calls]

/-- A step of an idle machine is the host's turn (R192). -/
theorem eq_hostTurn_of_idle {s t : State} (hp : s.phase = .idle) (h : step s = .next t) : t = s.hostTurn := by
  rw [step_of_idle hp] at h; cases h; rfl

theorem State.hostTurn_nil {s : State} (h : s.calls = []) : s.hostTurn = s := by simp [State.hostTurn, h]

theorem State.hostTurn_cons {s : State} {op : HostOp} {rest : List HostOp} (h : s.calls = op :: rest) :
    s.hostTurn = { s with calls := rest }.hostCall op := by simp [State.hostTurn, h]

/-- A RESET answers a fresh machine, or refuses and touches none (R230, R231). -/
theorem State.resetOp_cases (s : State) (program : List Byte) :
    s.resetOp program = (s.fresh program).reply .machineReady ∨
      s.resetOp program = s.reply (.loadFailed .programTooLarge) := by
  unfold State.resetOp
  split
  · exact .inl rfl
  · exact .inr rfl

theorem State.hostCall_cfg (s : State) (op : HostOp) : (s.hostCall op).cfg = s.cfg := by
  cases op with
  | reset program =>
    change (s.resetOp program).cfg = s.cfg
    rcases s.resetOp_cases program with hr | hr <;> rw [hr] <;> rfl
  | cycle | fbRead | toneRead => rfl

/-- Settles O51: a host call and a drain step each keep the parameters. -/
theorem parametersNeverChange : Obligations.ParametersNeverChange := by
  intro s t h
  cases hp : s.phase with
  | draining =>
    obtain ⟨-, -, hcfg, -⟩ := step_keeps_of_draining hp h
    exact hcfg
  | idle =>
    rw [eq_hostTurn_of_idle hp h]
    cases hc : s.calls with
    | nil => rw [State.hostTurn_nil hc]
    | cons op rest =>
      rw [State.hostTurn_cons hc]
      exact State.hostCall_cfg { s with calls := rest } op

/-- A host call that raises the tone flag is a CYCLE with ST = 1 (R184). -/
theorem State.hostCall_tone_rise {s : State} {op : HostOp} (h : s.tone = false) (h' : (s.hostCall op).tone = true) :
    s.st = 1 ∧ ∃ snapshot, op = .cycle snapshot := by
  cases op with
  | reset program =>
    change (s.resetOp program).tone = true at h'
    rcases s.resetOp_cases program with hr | hr
    · rw [hr] at h'; cases h'
    · rw [hr, State.reply_tone, h] at h'; cases h'
  | cycle snapshot =>
    change (s.startFrame snapshot).tone = true at h'
    rw [State.startFrame_tone, h, Bool.false_or, beq_iff_eq] at h'
    exact ⟨h', snapshot, rfl⟩
  | fbRead => exact absurd h' (by simp [State.hostCall, h])
  | toneRead => cases h'

/-- A host call that lowers the tone flag is a TONE_READ or a RESET (R191, R230). -/
theorem State.hostCall_tone_fall {s : State} {op : HostOp} (h : s.tone = true) (h' : (s.hostCall op).tone = false) :
    op = .toneRead ∨ ∃ program, op = .reset program := by
  cases op with
  | reset program => exact .inr ⟨program, rfl⟩
  | cycle snapshot => exact absurd h' (by simp [State.hostCall, h])
  | fbRead => exact absurd h' (by simp [State.hostCall, h])
  | toneRead => exact .inl rfl

/-- A step that changes the tone flag is a host call on an idle machine (R29, R38). -/
theorem hostCall_of_tone_ne {s t : State} (h : step s = .next t) (hne : t.tone ≠ s.tone) :
    s.phase = .idle ∧ ∃ op rest, s.calls = op :: rest ∧ t = { s with calls := rest }.hostCall op := by
  cases hp : s.phase with
  | draining =>
    obtain ⟨-, htone, -, -⟩ := step_keeps_of_draining hp h
    exact absurd htone hne
  | idle =>
    have ht := eq_hostTurn_of_idle hp h
    cases hc : s.calls with
    | nil => exact absurd (by rw [ht, State.hostTurn_nil hc]) hne
    | cons op rest => exact ⟨rfl, op, rest, rfl, by rw [ht, State.hostTurn_cons hc, hp]⟩

/-- Settles O50: the flag changes only in a host call, and of the four only CYCLE sets it and only TONE_READ and RESET
clear it. -/
theorem toneIsSetByTheTickAndClearedByTheHost : Obligations.ToneIsSetByTheTickAndClearedByTheHost := by
  intro s t h
  refine ⟨fun hs ht => ?_, fun hs ht => ?_⟩
  · obtain ⟨hp, op, rest, hc, rfl⟩ := hostCall_of_tone_ne h (by simp [hs, ht])
    obtain ⟨hst, snapshot, rfl⟩ := State.hostCall_tone_rise (s := { s with calls := rest }) hs ht
    exact ⟨hp, hst, snapshot, rest, hc⟩
  · obtain ⟨hp, op, rest, hc, rfl⟩ := hostCall_of_tone_ne h (by simp [hs, ht])
    rcases State.hostCall_tone_fall (s := { s with calls := rest }) hs ht with rfl | ⟨program, rfl⟩
    · exact ⟨hp, rest, .inl hc⟩
    · exact ⟨hp, rest, .inr ⟨program, hc⟩⟩

/-! ### Reset -/

/-- The font stands at FONT_BASE after reset (R233). -/
theorem unwritten_font (c : Config) (j : Nat) (h : j < 80) : unwritten c (c.fontBase.val + j) = c.font[j] := by
  have hbase := c.fontBase.isLt
  rw [unwritten, if_neg (by simp only [loadAddr]; omega), if_pos (by omega), Nat.add_sub_cancel_left, fontByte, dif_pos h]

/-- Every other byte is zero after reset (R36). -/
theorem unwritten_outside_font (c : Config) (a : Nat) (h : a < c.fontBase.val ∨ c.fontBase.val + 80 ≤ a) :
    unwritten c a = 0 := by
  unfold unwritten
  split
  · rfl
  · split
    · rw [fontByte, dif_neg (by omega)]
    · rfl

/-- A machine of any parameters with no program is fresh (R36). -/
theorem isFresh_blank (c : Config) : IsFresh (State.blank c) [] := by
  refine ⟨fun x => ?_, rfl, rfl, fun k hk => ?_, rfl, fun k => ?_, rfl, rfl, rfl, fun k hk => ?_, rfl, rfl,
    unwritten_font c, fun j hj => absurd hj (Nat.not_lt_zero j), fun a ha _ => unwritten_outside_font c a ha⟩
  · exact Vector.getElem_replicate x.isLt
  · exact Vector.getElem_replicate hk
  · exact Vector.getElem_replicate k.isLt
  · exact Vector.getElem_replicate hk

/-- Settles O45: State.reset is the blank machine with the open parameters. -/
theorem resetStateIsTheResetTable : Obligations.ResetStateIsTheResetTable := isFresh_blank Config.machine

/-- Settles O53: no cell differs from its reset content. -/
theorem resetMemoryIsCanonical : Obligations.ResetMemoryIsCanonical := Memory.nil_wf Config.machine

end Sys2Proof.Machine

/-! The memory family: the canonical form fixes the data and every step keeps it; what a register dump leaves in memory; the
bounds of the fetch. -/

namespace Sys2Proof.Machine

/-! ### The canonical form -/

theorem Memory.wfFrom_cell_iff (c : Config) (lo k : Nat) (v : Byte) (rest : Memory) :
    Memory.wfFrom c lo ((k, v) :: rest) = true ↔
      lo ≤ k ∧ k < c.memSize ∧ v ≠ unwritten c k ∧ Memory.wfFrom c (k + 1) rest = true := by
  simp only [Memory.wfFrom, Bool.and_eq_true, decide_eq_true_eq, hasAddr_iff, bne_iff_ne, and_assoc]

/-- The first listed cell shows: its address does not read as after reset. -/
theorem Memory.read_head_ne_unwritten (c : Config) {lo k : Nat} {v : Byte} {rest : Memory}
    (hm : Memory.wfFrom c lo ((k, v) :: rest) = true) : Memory.read c ((k, v) :: rest) k ≠ unwritten c k := by
  obtain ⟨-, -, hv, -⟩ := (Memory.wfFrom_cell_iff c lo k v rest).1 hm
  rwa [Memory.read_cons, if_pos rfl]

/-- Of two canonical memories that read alike, neither lists its first cell before the other's first cell: there the other
still reads as after reset. -/
theorem Memory.head_le_head (c : Config) {lo k k' : Nat} {v v' : Byte} {rest rest' : Memory}
    (hm : Memory.wfFrom c lo ((k, v) :: rest) = true) (hm' : Memory.wfFrom c lo ((k', v') :: rest') = true)
    (hread : Memory.read c ((k, v) :: rest) k = Memory.read c ((k', v') :: rest') k) : k' ≤ k := by
  by_contra hlt
  obtain ⟨-, hk', hv', hrest'⟩ := (Memory.wfFrom_cell_iff c lo k' v' rest').1 hm'
  have habove : Memory.wfFrom c (k + 1) ((k', v') :: rest') = true :=
    (Memory.wfFrom_cell_iff c (k + 1) k' v' rest').2 ⟨by omega, hk', hv', hrest'⟩
  exact Memory.read_head_ne_unwritten c hm (hread.trans (Memory.read_below c (Nat.lt_succ_self k) habove))

/-- Behind a common first address, tails read alike when the whole memories do. -/
theorem Memory.read_tail_eq (c : Config) {k : Nat} {v v' : Byte} {rest rest' : Memory}
    (hrest : Memory.wfFrom c (k + 1) rest = true) (hrest' : Memory.wfFrom c (k + 1) rest' = true)
    (hread : ∀ a, Memory.read c ((k, v) :: rest) a = Memory.read c ((k, v') :: rest') a) (a : Nat) :
    Memory.read c rest a = Memory.read c rest' a := by
  by_cases ha : k = a
  · rw [Memory.read_below c (by omega) hrest, Memory.read_below c (by omega) hrest']
  · simpa only [Memory.read_cons, if_neg ha] using hread a

theorem Memory.eq_of_read_eq (c : Config) {lo : Nat} {m m' : Memory} (hm : Memory.wfFrom c lo m = true)
    (hm' : Memory.wfFrom c lo m' = true) (hread : ∀ a, Memory.read c m a = Memory.read c m' a) : m = m' := by
  induction m generalizing lo m' with
  | nil =>
    cases m' with
    | nil => rfl
    | cons cell' rest' => exact absurd (hread cell'.1).symm (Memory.read_head_ne_unwritten c hm')
  | cons cell rest ih =>
    cases m' with
    | nil => exact absurd (hread cell.1) (Memory.read_head_ne_unwritten c hm)
    | cons cell' rest' =>
      obtain ⟨k, v⟩ := cell
      obtain ⟨k', v'⟩ := cell'
      obtain rfl : k = k' :=
        le_antisymm (Memory.head_le_head c hm' hm (hread k').symm) (Memory.head_le_head c hm hm' (hread k))
      obtain ⟨-, -, -, hrest⟩ := (Memory.wfFrom_cell_iff c lo k v rest).1 hm
      obtain ⟨-, -, -, hrest'⟩ := (Memory.wfFrom_cell_iff c lo k v' rest').1 hm'
      have hv : v = v' := by simpa only [Memory.read_cons, if_pos] using hread k
      rw [hv, ih hrest hrest' (Memory.read_tail_eq c hrest hrest' hread)]

/-- Settles O54, by induction on the cells: the first addresses agree, then the bytes there, then the tails. -/
theorem canonicalMemoriesThatReadAlikeAreEqual : Obligations.CanonicalMemoriesThatReadAlikeAreEqual :=
  fun c _ _ hm hm' hread => Memory.eq_of_read_eq c hm hm' hread

/-! ### Steps keep the canonical form -/

/-- The canonical form is a matter of the memory and the parameters alone. -/
theorem MemOk.congr {s t : State} (hs : MemOk s) (hmem : t.mem = s.mem) (hcfg : t.cfg = s.cfg) : MemOk t := by
  rw [MemOk, hmem, hcfg]
  exact hs

/-- An instruction keeps the canonical form: the two that store have checked their block, no other touches memory (R55, R38). -/
theorem exec_keeps_memOk {i : Instr} {s t : State} (hs : MemOk s) (h : exec i s = .next t) : MemOk t := by
  obtain ⟨-, -, -, -, -, -, hmem, -, -, -, hcfg, -⟩ := instructionsWriteOnlyTheirOwnState i s t h
  cases i with
  | ldB x =>
    simp only [exec, execLdB] at h
    split at h <;> cases h
    · rename_i hfits
      exact writeAtI_memOk hs hfits
    · exact hs
  | dumpRegs x =>
    simp only [exec, execDumpRegs] at h
    split at h <;> cases h
    · rename_i hfits
      exact writeAtI_memOk hs (by rwa [State.length_regBlock])
    · exact hs
  | _ => exact hs.congr (by_contra fun hne => by simpa [Instr.variant] using hmem hne) hcfg

/-- A program that fits is loaded into canonical memory (R230, R232). -/
theorem fresh_memOk (s : State) {program : List Byte} (h : blockFits s.cfg loadAddr program.length = true) :
    MemOk (s.fresh program) := by
  rw [blockFits_iff] at h
  have hroom := Config.memSize_ge s.cfg
  have hend : loadAddr + program.length ≤ s.cfg.memSize := by
    simp only [loadAddr, minMemSize] at h hroom ⊢
    omega
  exact Memory.writeBlock_wf s.cfg hend (Memory.nil_wf s.cfg)

theorem State.hostCall_keeps_memOk {s : State} (hs : MemOk s) (op : HostOp) : MemOk (s.hostCall op) := by
  cases op with
  | reset program =>
    simp only [State.hostCall, State.resetOp]
    split
    · rename_i hfits
      exact (fresh_memOk s hfits).congr rfl rfl
    · exact hs
  | cycle | fbRead | toneRead => exact hs

theorem State.hostTurn_keeps_memOk {s : State} (hs : MemOk s) : MemOk s.hostTurn := by
  cases hc : s.calls with
  | nil => rwa [State.hostTurn_nil hc]
  | cons op rest =>
    rw [State.hostTurn_cons hc]
    exact State.hostCall_keeps_memOk (s := { s with calls := rest }) hs op

/-- Settles O52: in the drain loop only the instruction run touches memory, between frames only RESET does. -/
theorem stepKeepsMemoryCanonical : Obligations.StepKeepsMemoryCanonical := by
  intro s t hs h
  cases hp : s.phase with
  | idle =>
    rw [eq_hostTurn_of_idle hp h]
    exact State.hostTurn_keeps_memOk hs
  | draining =>
    rcases step_draining_cases hp h with ⟨-, rfl⟩ | ⟨e, rfl⟩ | ⟨i, u, -, -, hu, -, rfl⟩
    · exact hs
    · exact hs
    · exact (exec_keeps_memOk hs hu).congr (State.charge_mem u _) (State.charge_cfg u _)

/-! ### Register dumps -/

/-- LD [I],Vx completes when its last byte exists (R55, R167). -/
theorem exec_dumpRegs {x : Reg} {s : State} (h : s.effAddr x.val < s.cfg.memSize) :
    exec (.dumpRegs x) s = .next (s.writeAtI (s.regBlock x)).advance := by
  have hfits : s.blockInMem (x.val + 1) = true := (blockInMem_iff s _).2 (.inr h)
  simp only [exec, execDumpRegs, if_pos hfits]

/-- A dump leaves the register `k` in the `k`-th byte from `I` on (R167). -/
theorem readMem_dump {x : Reg} {s : State} (hs : MemOk s) (h : s.effAddr x.val < s.cfg.memSize) (k : Reg) (hk : k ≤ x) :
    (s.writeAtI (s.regBlock x)).readMem (s.effAddr k.val) = s.reg k := by
  have hkx : k.val ≤ x.val := hk
  have hlen := State.length_regBlock s x
  simp only [State.effAddr] at h
  simp only [State.readMem, State.writeAtI_mem, State.writeAtI_cfg, State.effAddr]
  rw [Memory.read_writeBlock s.cfg (by omega) hs, dif_pos (by omega), State.getElem_regBlock]
  exact congrArg s.reg (Fin.ext (Nat.add_sub_cancel_left s.i.toNat k.val))

/-- Settles O29: the fetch at `I` reads the first two bytes of the dump, V0 the high one (R52, R62). -/
theorem fetchSeesTheStoredBytes : Obligations.FetchSeesTheStoredBytes := by
  intro x s hs hx h
  refine ⟨_, exec_dumpRegs h, fun u hmem hcfg hpc => ?_⟩
  have hread : ∀ a, u.readMem a = (s.writeAtI (s.regBlock x)).readMem a := fun a => by
    rw [State.readMem, hmem, hcfg]; rfl
  have hhi : u.readMem u.pc.toNat = s.reg 0 := by
    rw [hread, hpc]
    exact readMem_dump hs h 0 (Fin.zero_le x)
  have hlo : u.readMem (u.pc.toNat + 1) = s.reg 1 := by
    rw [hread, hpc]
    exact readMem_dump hs h 1 hx
  rw [State.fetchWord, hhi, hlo, toNat_wordOfBytes]

/-! ### The bounds of the fetch -/

/-- Settles O37: both bounds are tested before the word is read, and each error is taken in the state as it is. -/
theorem fetchChecksTheBounds : Obligations.FetchChecksTheBounds :=
  fun s hp hb => ⟨fun hpc => ⟨_, step_of_pcOut hp hb hpc, raised_takeError s _⟩,
    fun hpc => ⟨_, step_of_straddle hp hb hpc, raised_takeError s _⟩⟩

end Sys2Proof.Machine

/-! The encoding family: the fields of an encoded word, the word rebuilt from its fields, what the decoder can answer, and the
table of masks read through the fields. -/

namespace Sys2Proof.Machine

/-! ### Fields of an encoded word (R71, R72) -/

@[simp] theorem fieldOp_formatAddr (op : BitVec 4) (nnn : Addr12) : fieldOp (formatAddr op nnn) = op.toNat := by
  rw [fieldOp_eq, toNat_formatAddr]
  omega

@[simp] theorem fieldNnn_formatAddr (op : BitVec 4) (nnn : Addr12) : fieldNnn (formatAddr op nnn) = nnn := by
  apply BitVec.eq_of_toNat_eq
  rw [fieldNnn_toNat, toNat_formatAddr]
  omega

theorem formatAddr_ne {op : BitVec 4} {nnn : Addr12} {w : Word} (h : nnn ≠ fieldNnn w) : formatAddr op nnn ≠ w :=
  fun he => h (by rw [← he, fieldNnn_formatAddr])

@[simp] theorem fieldOp_formatXkk (op : BitVec 4) (x : Reg) (kk : Byte) : fieldOp (formatXkk op x kk) = op.toNat := by
  rw [fieldOp_eq, toNat_formatXkk]
  omega

@[simp] theorem fieldX_formatXkk (op : BitVec 4) (x : Reg) (kk : Byte) : fieldX (formatXkk op x kk) = x := by
  rw [Fin.ext_iff, fieldX_val, toNat_formatXkk]
  omega

@[simp] theorem fieldKk_formatXkk (op : BitVec 4) (x : Reg) (kk : Byte) : fieldKk (formatXkk op x kk) = kk := by
  apply BitVec.eq_of_toNat_eq
  rw [fieldKk_toNat, toNat_formatXkk]
  omega

@[simp] theorem fieldOp_formatXyn (op : BitVec 4) (x y : Reg) (n : Height) : fieldOp (formatXyn op x y n) = op.toNat := by
  rw [fieldOp_eq, toNat_formatXyn]
  omega

@[simp] theorem fieldX_formatXyn (op : BitVec 4) (x y : Reg) (n : Height) : fieldX (formatXyn op x y n) = x := by
  rw [Fin.ext_iff, fieldX_val, toNat_formatXyn]
  omega

@[simp] theorem fieldY_formatXyn (op : BitVec 4) (x y : Reg) (n : Height) : fieldY (formatXyn op x y n) = y := by
  rw [Fin.ext_iff, fieldY_val, toNat_formatXyn]
  omega

@[simp] theorem fieldN_formatXyn (op : BitVec 4) (x y : Reg) (n : Height) : fieldN (formatXyn op x y n) = n := by
  rw [Fin.ext_iff, fieldN_val, toNat_formatXyn]
  omega

/-! ### Decoding an encoded instruction -/

theorem wf_sys_iff (nnn : Addr12) : (Instr.sys nnn).wf = true ↔ nnn ≠ 0x0E0#12 ∧ nnn ≠ 0x0EE#12 := by
  simp only [Instr.wf, Bool.and_eq_true, bne_iff_ne]

theorem decodeWord_encode {i : Instr} (h : i.wf = true) : decodeWord (encode i) = .ok i := by
  cases i with
  | cls | ret => decide
  | sys nnn =>
    obtain ⟨hcls, hret⟩ := (wf_sys_iff nnn).1 h
    have hcls' : formatAddr 0x0#4 nnn ≠ 0x00E0#16 := formatAddr_ne hcls
    have hret' : formatAddr 0x0#4 nnn ≠ 0x00EE#16 := formatAddr_ne hret
    simp [encode, decodeWord, decodeFamily0, hcls', hret']
  | _ => simp [encode, decodeWord, decodeFamily8, decodeFamilyE, decodeFamilyF]

/-- The two bytes of an instruction are read as its word, and the bytes after them are left (R52). -/
theorem decode_encodeBytes_append (i : Instr) (rest : List Byte) :
    decode (encodeBytes i ++ rest) = (decodeWord (encode i)).map (·, rest) := by
  rw [encodeBytes, List.cons_append, List.cons_append, List.nil_append, decode, wordOfBytes_hiByte_loByte]
  cases decodeWord (encode i) <;> rfl

/-- Settles O30, from the fields of each format and the word two bytes form. -/
theorem decodeOfEncodeIsTheInstruction : Obligations.DecodeOfEncodeIsTheInstruction := by
  intro i hwf
  refine ⟨decodeWord_encode hwf, fun rest => ?_⟩
  rw [decode_encodeBytes_append, decodeWord_encode hwf]
  rfl

/-! ### A word rebuilt from its fields (R72) -/

theorem formatAddr_fields {w : Word} {op : BitVec 4} (hop : fieldOp w = op.toNat) : formatAddr op (fieldNnn w) = w := by
  apply BitVec.eq_of_toNat_eq
  rw [toNat_formatAddr, ← hop, fieldOp_eq, fieldNnn_toNat]
  omega

theorem formatXkk_fields {w : Word} {op : BitVec 4} {kk : Byte} (hop : fieldOp w = op.toNat)
    (hkk : (fieldKk w).toNat = kk.toNat) : formatXkk op (fieldX w) kk = w := by
  apply BitVec.eq_of_toNat_eq
  rw [toNat_formatXkk, ← hop, ← hkk, fieldOp_eq, fieldX_val, fieldKk_toNat]
  omega

theorem formatXyn_fields {w : Word} {op : BitVec 4} {n : Height} (hop : fieldOp w = op.toNat)
    (hn : (fieldN w).val = n.val) : formatXyn op (fieldX w) (fieldY w) n = w := by
  apply BitVec.eq_of_toNat_eq
  rw [toNat_formatXyn, ← hop, ← hn, fieldOp_eq, fieldX_val, fieldY_val, fieldN_val]
  omega

theorem fieldOp_lt (w : Word) : fieldOp w < 16 := (w.extractLsb' 12 4).isLt

/-! ### What the decoder can answer -/

/-- The illegal words of R81, by the fields the decoder reads. -/
theorem illegalWord_iff (w : Word) :
    IllegalWord w ↔ (fieldOp w = 5 ∧ (fieldN w).val ≠ 0) ∨ (fieldOp w = 9 ∧ (fieldN w).val ≠ 0) ∨
      (fieldOp w = 8 ∧ 0x8 ≤ (fieldN w).val ∧ (fieldN w).val ≠ 0xE) ∨
      (fieldOp w = 0xE ∧ (fieldKk w).toNat ≠ 0x9E ∧ (fieldKk w).toNat ≠ 0xA1) ∨
      (fieldOp w = 0xF ∧ (fieldKk w).toNat ≠ 0x07 ∧ (fieldKk w).toNat ≠ 0x0A ∧ (fieldKk w).toNat ≠ 0x15 ∧
        (fieldKk w).toNat ≠ 0x18 ∧ (fieldKk w).toNat ≠ 0x1E ∧ (fieldKk w).toNat ≠ 0x29 ∧ (fieldKk w).toNat ≠ 0x33 ∧
        (fieldKk w).toNat ≠ 0x55 ∧ (fieldKk w).toNat ≠ 0x65) := by
  have hn : w.toNat % 16 ∈ [0x8, 0x9, 0xA, 0xB, 0xC, 0xD, 0xF] ↔ 0x8 ≤ w.toNat % 16 ∧ w.toNat % 16 ≠ 0xE := by
    simp only [List.mem_cons, List.not_mem_nil, or_false]
    omega
  simp only [IllegalWord, hn, fieldOp_eq, fieldN_val, fieldKk_toNat, List.mem_cons, List.not_mem_nil, or_false, not_or]

/-- An answer a decoder may give the word: a well-formed instruction the word encodes, or the refusal of an illegal word by
its name (R81, R82). -/
def FaithfulAnswer (w : Word) : Except DecodeError Instr → Prop
  | .ok i => i.wf = true ∧ encode i = w
  | .error e => IllegalWord w ∧ e = .unknownOpcode w

theorem decodeFamily0_faithful {w : Word} (hop : fieldOp w = 0x0) : FaithfulAnswer w (.ok (decodeFamily0 w)) := by
  have hw : formatAddr 0x0 (fieldNnn w) = w := formatAddr_fields hop
  unfold decodeFamily0
  split
  case isTrue hcls => exact ⟨rfl, hcls.symm⟩
  split
  case isTrue hret => exact ⟨rfl, hret.symm⟩
  case isFalse hcls hret =>
    refine ⟨(wf_sys_iff _).2 ⟨?_, ?_⟩, hw⟩
    · exact fun h => hcls (by rw [← hw, h]; decide)
    · exact fun h => hret (by rw [← hw, h]; decide)

theorem decodeFamily8_faithful {w : Word} (hop : fieldOp w = 0x8) : FaithfulAnswer w (decodeFamily8 w) := by
  unfold decodeFamily8
  split
  case h_10 => exact ⟨(illegalWord_iff w).2 (by grind), rfl⟩
  all_goals exact ⟨rfl, formatXyn_fields hop ‹_›⟩

theorem decodeFamilyE_faithful {w : Word} (hop : fieldOp w = 0xE) : FaithfulAnswer w (decodeFamilyE w) := by
  unfold decodeFamilyE
  split
  case h_3 => exact ⟨(illegalWord_iff w).2 (by grind), rfl⟩
  all_goals exact ⟨rfl, formatXkk_fields hop ‹_›⟩

theorem decodeFamilyF_faithful {w : Word} (hop : fieldOp w = 0xF) : FaithfulAnswer w (decodeFamilyF w) := by
  unfold decodeFamilyF
  split
  case h_10 => exact ⟨(illegalWord_iff w).2 (by grind), rfl⟩
  all_goals exact ⟨rfl, formatXkk_fields hop ‹_›⟩

theorem decodeWord_faithful (w : Word) : FaithfulAnswer w (decodeWord w) := by
  unfold decodeWord
  split
  case h_1 hop => exact decodeFamily0_faithful hop
  case h_6 hop =>
    split
    case isTrue hn => exact ⟨rfl, formatXyn_fields hop (congrArg Fin.val hn)⟩
    case isFalse hn => exact ⟨(illegalWord_iff w).2 (.inl ⟨hop, Fin.val_ne_of_ne hn⟩), rfl⟩
  case h_9 hop => exact decodeFamily8_faithful hop
  case h_10 hop =>
    split
    case isTrue hn => exact ⟨rfl, formatXyn_fields hop (congrArg Fin.val hn)⟩
    case isFalse hn => exact ⟨(illegalWord_iff w).2 (.inr (.inl ⟨hop, Fin.val_ne_of_ne hn⟩)), rfl⟩
  case h_14 hop => exact ⟨rfl, formatXyn_fields hop rfl⟩
  case h_15 hop => exact decodeFamilyE_faithful hop
  case h_16 hop => exact decodeFamilyF_faithful hop
  case h_17 =>
    have hlt := fieldOp_lt w
    grind
  case h_2 | h_3 | h_11 | h_12 => exact ⟨rfl, formatAddr_fields ‹_›⟩
  case h_4 | h_5 | h_7 | h_8 | h_13 => exact ⟨rfl, formatXkk_fields ‹_› rfl⟩

/-- Settles O31: it is what a faithful answer with an instruction says. -/
theorem encodeOfDecodeIsTheWord : Obligations.EncodeOfDecodeIsTheWord := by
  intro w i h
  have hw := decodeWord_faithful w
  rwa [h] at hw

/-! ### The illegal words -/

theorem not_illegalWord_encode (i : Instr) : ¬ IllegalWord (encode i) := by
  rw [illegalWord_iff]
  cases i <;> simp [encode]

theorem decodeWord_of_illegal {w : Word} (h : IllegalWord w) : decodeWord w = .error (.unknownOpcode w) := by
  have hw := decodeWord_faithful w
  cases hd : decodeWord w with
  | ok i =>
    obtain ⟨-, henc⟩ := encodeOfDecodeIsTheWord w i hd
    exact absurd (henc ▸ h) (not_illegalWord_encode i)
  | error e =>
    rw [hd] at hw
    exact congrArg _ hw.2

theorem decodeWord_of_not_illegal {w : Word} (h : ¬ IllegalWord w) : ∃ i, decodeWord w = .ok i := by
  have hw := decodeWord_faithful w
  cases hd : decodeWord w with
  | ok i => exact ⟨i, rfl⟩
  | error e =>
    rw [hd] at hw
    exact absurd hw.1 h

/-- Settles O33: a refusal is faithful, and no illegal word encodes an instruction. -/
theorem decoderRefusesExactlyTheIllegalWords : Obligations.DecoderRefusesExactlyTheIllegalWords :=
  fun _ => ⟨decodeWord_of_illegal, decodeWord_of_not_illegal⟩

/-! ### The table of masks (R75) through the fields -/

/-- The rows of the opcode table for one value of the family selector (R74). -/
def familyRows (op : Nat) : List OpcodeRow := opcodeTable.filter fun r => r.pattern.toNat / 4096 == op

/-- The opcode table, family by family. -/
theorem familyRows_eq :
    familyRows 0x0 = [⟨.CLS, 0x00E0, 0xFFFF⟩, ⟨.RET, 0x00EE, 0xFFFF⟩, ⟨.SYS, 0x0000, 0xF000⟩] ∧
    familyRows 0x1 = [⟨.JP, 0x1000, 0xF000⟩] ∧
    familyRows 0x2 = [⟨.CALL, 0x2000, 0xF000⟩] ∧
    familyRows 0x3 = [⟨.SE_VX_KK, 0x3000, 0xF000⟩] ∧
    familyRows 0x4 = [⟨.SNE_VX_KK, 0x4000, 0xF000⟩] ∧
    familyRows 0x5 = [⟨.SE_VX_VY, 0x5000, 0xF00F⟩] ∧
    familyRows 0x6 = [⟨.LD_VX_KK, 0x6000, 0xF000⟩] ∧
    familyRows 0x7 = [⟨.ADD_VX_KK, 0x7000, 0xF000⟩] ∧
    familyRows 0x8 = [⟨.LD_VX_VY, 0x8000, 0xF00F⟩, ⟨.OR_VX_VY, 0x8001, 0xF00F⟩, ⟨.AND_VX_VY, 0x8002, 0xF00F⟩,
      ⟨.XOR_VX_VY, 0x8003, 0xF00F⟩, ⟨.ADD_VX_VY, 0x8004, 0xF00F⟩, ⟨.SUB_VX_VY, 0x8005, 0xF00F⟩,
      ⟨.SHR_VX_VY, 0x8006, 0xF00F⟩, ⟨.SUBN_VX_VY, 0x8007, 0xF00F⟩, ⟨.SHL_VX_VY, 0x800E, 0xF00F⟩] ∧
    familyRows 0x9 = [⟨.SNE_VX_VY, 0x9000, 0xF00F⟩] ∧
    familyRows 0xA = [⟨.LD_I_NNN, 0xA000, 0xF000⟩] ∧
    familyRows 0xB = [⟨.JP_V0_NNN, 0xB000, 0xF000⟩] ∧
    familyRows 0xC = [⟨.RND_VX_KK, 0xC000, 0xF000⟩] ∧
    familyRows 0xD = [⟨.DRW_VX_VY_N, 0xD000, 0xF000⟩] ∧
    familyRows 0xE = [⟨.SKP_VX, 0xE09E, 0xF0FF⟩, ⟨.SKNP_VX, 0xE0A1, 0xF0FF⟩] ∧
    familyRows 0xF = [⟨.LD_VX_DT, 0xF007, 0xF0FF⟩, ⟨.LD_VX_K, 0xF00A, 0xF0FF⟩, ⟨.LD_DT_VX, 0xF015, 0xF0FF⟩,
      ⟨.LD_ST_VX, 0xF018, 0xF0FF⟩, ⟨.ADD_I_VX, 0xF01E, 0xF0FF⟩, ⟨.LD_F_VX, 0xF029, 0xF0FF⟩,
      ⟨.LD_B_VX, 0xF033, 0xF0FF⟩, ⟨.LD_I_VX, 0xF055, 0xF0FF⟩, ⟨.LD_VX_I, 0xF065, 0xF0FF⟩] := by
  decide

/-- A masked word that is the selector and one field meets a pattern when both its parts do. -/
theorem eq_pattern_iff {v : Word} {op f : Nat} (hf : f < 4096) (hv : v.toNat = op * 4096 + f) (p : Word) :
    v = p ↔ op = p.toNat / 4096 ∧ f = p.toNat % 4096 := by
  rw [← BitVec.toNat_inj]
  omega

theorem and_F000_eq_iff (w p : Word) :
    w &&& 0xF000#16 = p ↔ fieldOp w = p.toNat / 4096 ∧ 0 = p.toNat % 4096 := by
  refine eq_pattern_iff (by omega) ?_ p
  rw [← formatAddr_fields (w := w) (op := w.extractLsb' 12 4) rfl, Laws.EncodesItsRow.mask_addr,
    fieldOp_formatAddr]
  exact toNat_formatAddr _ 0

theorem and_F00F_eq_iff (w p : Word) :
    w &&& 0xF00F#16 = p ↔ fieldOp w = p.toNat / 4096 ∧ (fieldN w).val = p.toNat % 4096 := by
  refine eq_pattern_iff (by omega) ?_ p
  rw [← formatXyn_fields (w := w) (op := w.extractLsb' 12 4) rfl rfl, Laws.EncodesItsRow.mask_xy,
    fieldOp_formatXyn, fieldN_formatXyn]
  refine (toNat_formatAddr _ (0x00#8 ++ nibble (fieldN w))).trans ?_
  rw [BitVec.toNat_append, toNat_nibble]
  simp

theorem and_F0FF_eq_iff (w p : Word) :
    w &&& 0xF0FF#16 = p ↔ fieldOp w = p.toNat / 4096 ∧ (fieldKk w).toNat = p.toNat % 4096 := by
  refine eq_pattern_iff (by omega) ?_ p
  rw [← formatXkk_fields (w := w) (op := w.extractLsb' 12 4) rfl rfl, Laws.EncodesItsRow.mask_sel,
    fieldOp_formatXkk, fieldKk_formatXkk]
  refine (toNat_formatXkk _ 0 (fieldKk w)).trans ?_
  simp

theorem and_FFFF_eq_iff (w p : Word) :
    w &&& 0xFFFF#16 = p ↔ fieldOp w = p.toNat / 4096 ∧ (fieldNnn w).toNat = p.toNat % 4096 := by
  have hall : w &&& 0xFFFF#16 = w := BitVec.and_allOnes
  rw [hall, ← BitVec.toNat_inj, fieldOp_eq, fieldNnn_toNat]
  omega

/-- A word meets only rows of its own family, since every mask keeps the selector. -/
theorem fieldOp_of_row {r : OpcodeRow} (hr : r ∈ opcodeTable) {w : Word} (h : w &&& r.mask = r.pattern) :
    fieldOp w = r.pattern.toNat / 4096 := by
  have hmask : ∀ q ∈ opcodeTable, q.mask = 0xF000#16 ∨ q.mask = 0xF00F#16 ∨ q.mask = 0xF0FF#16 ∨
      q.mask = 0xFFFF#16 := by decide
  rcases hmask r hr with hm | hm | hm | hm <;> rw [hm] at h
  · exact ((and_F000_eq_iff w _).1 h).1
  · exact ((and_F00F_eq_iff w _).1 h).1
  · exact ((and_F0FF_eq_iff w _).1 h).1
  · exact ((and_FFFF_eq_iff w _).1 h).1

theorem tableVariant_eq_familyRows (w : Word) :
    tableVariant w = ((familyRows (fieldOp w)).find? fun r => w &&& r.mask == r.pattern).map (·.variant) := by
  rw [tableVariant, familyRows, List.find?_filter]
  refine congrArg _ (List.find?_congr fun r hr => ?_)
  cases h : w &&& r.mask == r.pattern with
  | true => simp [fieldOp_of_row hr (beq_iff_eq.1 h)]
  | false => simp

theorem tableVariant_encode {i : Instr} (h : i.wf = true) : tableVariant (encode i) = some i.variant := by
  rw [tableVariant_eq_familyRows]
  cases i with
  | cls | ret => decide
  | sys nnn =>
    obtain ⟨hcls, hret⟩ : nnn.toNat ≠ 0x0E0 ∧ nnn.toNat ≠ 0x0EE := by
      simpa [← BitVec.toNat_inj] using (wf_sys_iff nnn).1 h
    simp [encode, familyRows_eq, and_F000_eq_iff, and_FFFF_eq_iff, hcls, hret, Instr.variant]
  | _ => simp [encode, familyRows_eq, and_F000_eq_iff, and_F00F_eq_iff, and_F0FF_eq_iff, Instr.variant]

theorem tableVariant_of_illegal {w : Word} (h : IllegalWord w) : tableVariant w = none := by
  rw [illegalWord_iff] at h
  rw [tableVariant_eq_familyRows]
  rcases h with ⟨hop, hn⟩ | ⟨hop, hn⟩ | ⟨hop, hn⟩ | ⟨hop, hkk⟩ | ⟨hop, hkk⟩
  · simp [familyRows_eq, and_F00F_eq_iff, hop, hn]
  · simp [familyRows_eq, and_F00F_eq_iff, hop, hn]
  · simp [familyRows_eq, and_F00F_eq_iff, hop]
    omega
  · simp [familyRows_eq, and_F0FF_eq_iff, hop, hkk]
  · simp [familyRows_eq, and_F0FF_eq_iff, hop, hkk]

/-- Settles O32: the decoder and the table agree on the encoded words, and both refuse the others. -/
theorem decoderAgreesWithTheOpcodeTable : Obligations.DecoderAgreesWithTheOpcodeTable := by
  intro w
  by_cases hw : IllegalWord w
  · rw [decodeWord_of_illegal hw, tableVariant_of_illegal hw]
    rfl
  · obtain ⟨i, hi⟩ := decodeWord_of_not_illegal hw
    obtain ⟨hwf, rfl⟩ := encodeOfDecodeIsTheWord w i hi
    rw [hi, tableVariant_encode hwf]
    rfl

/-! ### The spec's own words -/

/-- Settles O34: the words are closed, so the decoder evaluates on each. -/
theorem specWordsDecodeAsWritten : Obligations.SpecWordsDecodeAsWritten := by
  unfold Obligations.SpecWordsDecodeAsWritten
  decide

end Sys2Proof.Machine

/-! The control flow family: the word of a pattern is the word of its instruction, a drain step of a decoded word, and what
each jump, call, return and skip does to `pc` and the stack. -/

namespace Sys2Proof.Machine

/-! ### The patterns of R75 as encoded words -/

theorem hexWordNnn_eq_formatAddr (op : BitVec 4) (nnn : Addr12) : hexWordNnn op.toNat nnn = formatAddr op nnn := by
  apply BitVec.eq_of_toNat_eq
  rw [toNat_hexWordNnn op.isLt, toNat_formatAddr]

theorem hexWordKk_eq_formatXkk (op : BitVec 4) (x : Reg) (kk : Byte) :
    hexWordKk op.toNat x.val kk = formatXkk op x kk := by
  apply BitVec.eq_of_toNat_eq
  rw [toNat_hexWordKk op.isLt x.isLt, toNat_formatXkk]

theorem hexWord_eq_formatXyn (op : BitVec 4) (x y : Reg) (n : Height) :
    hexWord op.toNat x.val y.val n.val = formatXyn op x y n := by
  apply BitVec.eq_of_toNat_eq
  rw [toNat_hexWord op.isLt x.isLt y.isLt n.isLt, toNat_formatXyn]

theorem decodeWord_of_eq_encode {w : Word} {i : Instr} (hw : w = encode i) (hwf : i.wf = true) :
    decodeWord w = .ok i := hw ▸ decodeWord_encode hwf

/-! ### A drain step on a decoded word (R187) -/

/-- The word decodes, so its instruction runs and is charged unless it raised. -/
theorem step_of_decode {s : State} {w : Word} {i : Instr} (hs : AboutToRun s w) (hw : decodeWord w = .ok i) :
    step s = chargeOutcome i.variant (exec i s) := by
  rw [step_of_aboutToRun hs, State.runWord, hw]

/-- An instruction that raises is not charged: the drain loop has ended (R187, R211). -/
theorem step_of_raise {s : State} {w : Word} {i : Instr} {e : FatalError} (hs : AboutToRun s w)
    (hw : decodeWord w = .ok i) (h : exec i s = .next (s.takeError e)) : step s = .next (s.takeError e) := by
  rw [step_of_decode hs hw, h, chargeOutcome, State.charge_idle _ _ rfl]

theorem stepRuns_of_decode {w : Word} {i : Instr} (hw : decodeWord w = .ok i) : StepRuns w i := by
  intro s t hs ht hdrain
  obtain ⟨-, -, -, hcfg, -⟩ := exec_keeps_hidden ht
  rw [step_of_decode hs hw, ht, chargeOutcome, State.charge_draining _ _ hdrain, hcfg]

/-! ### Ways an instruction can end -/

theorem raises_of_exec {i : Instr} {s : State} {e : FatalError} (h : exec i s = .next (s.takeError e)) : Raises i s e :=
  ⟨_, h, raised_takeError s e⟩

theorem onlyGoesTo_of_exec {i : Instr} {s : State} {a : Word} (h : exec i s = .next (s.setPc a)) : OnlyGoesTo i s a :=
  ⟨_, h, rfl, rfl, fun _ _ => rfl, fun _ => rfl⟩

/-- Two instructions that skip on opposite conditions: where one goes on by 4, the other goes on by 2. -/
theorem onlyGoesTo_of_oppositeSkips {i j : Instr} {s : State} {c : Bool} (hi : exec i s = .next (s.skipIf c))
    (hj : exec j s = .next (s.skipIf (!c))) :
    (c = true → OnlyGoesTo i s (s.pc + 4) ∧ OnlyGoesTo j s (s.pc + 2)) ∧
      (c = false → OnlyGoesTo i s (s.pc + 2) ∧ OnlyGoesTo j s (s.pc + 4)) := by
  constructor
  · rintro rfl
    exact ⟨onlyGoesTo_of_exec hi, onlyGoesTo_of_exec hj⟩
  · rintro rfl
    exact ⟨onlyGoesTo_of_exec hi, onlyGoesTo_of_exec hj⟩

/-- A skip on equal bytes and a skip on different bytes (R105 to R108). -/
theorem onlyGoesTo_of_compareSkips {i j : Instr} {s : State} {a b : Byte} (hi : exec i s = .next (s.skipIf (a == b)))
    (hj : exec j s = .next (s.skipIf (a != b))) :
    (a = b → OnlyGoesTo i s (s.pc + 4) ∧ OnlyGoesTo j s (s.pc + 2)) ∧
      (a ≠ b → OnlyGoesTo i s (s.pc + 2) ∧ OnlyGoesTo j s (s.pc + 4)) := by
  obtain ⟨heq, hne⟩ := onlyGoesTo_of_oppositeSkips hi hj
  exact ⟨fun h => heq (beq_iff_eq.2 h), fun h => hne (beq_eq_false_iff_ne.2 h)⟩

/-! ### SYS (R101) -/

theorem sysWord_eq_hexWordNnn (nnn : Addr12) : sysWord nnn = hexWordNnn 0x0 nnn := (hexWordNnn_eq_formatAddr 0x0 nnn).symm

theorem exec_sys (nnn : Addr12) (s : State) :
    exec (.sys nnn) s = .next (s.takeError (.unknownOpcode (hexWordNnn 0x0 nnn))) := by
  rw [← sysWord_eq_hexWordNnn]
  rfl

/-- Settles O1: SYS takes the error with its own word, and a step that raises is not charged. -/
theorem sysRaisesUnknownOpcode : Obligations.SysRaisesUnknownOpcode := by
  refine fun nnn => ⟨fun hcls hret => ?_, fun s => raises_of_exec (exec_sys nnn s)⟩
  have hdec : decodeWord (hexWordNnn 0x0 nnn) = .ok (.sys nnn) :=
    decodeWord_of_eq_encode (sysWord_eq_hexWordNnn nnn).symm ((wf_sys_iff nnn).2 ⟨hcls, hret⟩)
  exact ⟨hdec, fun s hs => ⟨_, step_of_raise hs hdec (exec_sys nnn s), raised_takeError s _⟩⟩

/-! ### Jumps (R103, R109) -/

theorem addrWord_eq_ofNat (nnn : Addr12) : addrWord nnn = BitVec.ofNat 16 nnn.toNat := (BitVec.ofNat_toNat 16 nnn).symm

theorem byteWord_eq_ofNat (b : Byte) : byteWord b = BitVec.ofNat 16 b.toNat := (BitVec.ofNat_toNat 16 b).symm

/-- Settles O3: JP only sets `pc`, and its word decodes to it, so each drain iteration on it is charged. -/
theorem jpSetsThePc : Obligations.JpSetsThePc := by
  intro nnn
  have hdec : decodeWord (hexWordNnn 0x1 nnn) = .ok (.jp nnn) :=
    decodeWord_of_eq_encode (hexWordNnn_eq_formatAddr 0x1 nnn) rfl
  refine ⟨hdec, stepRuns_of_decode hdec, fun s => ?_⟩
  rw [← addrWord_eq_ofNat]
  exact onlyGoesTo_of_exec rfl

/-- Settles O7: the sum of the two zero-extended fields is the number's own 16-bit word, never cut to 12 bits. -/
theorem jpV0AddsV0WithoutMask : Obligations.JpV0AddsV0WithoutMask := by
  refine fun nnn => ⟨decodeWord_of_eq_encode (hexWordNnn_eq_formatAddr 0xB nnn) rfl, fun s => ⟨?_, ?_⟩⟩
  · have hnnn := nnn.isLt
    have hv0 := (s.reg 0).isLt
    omega
  · rw [BitVec.ofNat_add, ← addrWord_eq_ofNat, ← byteWord_eq_ofNat]
    exact onlyGoesTo_of_exec rfl

/-! ### Skips (R105 to R108) -/

/-- Settles O5: both words decode, so both are charged either way, and the two conditions are opposite. -/
theorem immediateSkipsCompareWithTheByte : Obligations.ImmediateSkipsCompareWithTheByte := by
  intro x kk
  have hse : decodeWord (hexWordKk 0x3 x.val kk) = .ok (.seImm x kk) :=
    decodeWord_of_eq_encode (hexWordKk_eq_formatXkk 0x3 x kk) rfl
  have hsne : decodeWord (hexWordKk 0x4 x.val kk) = .ok (.sneImm x kk) :=
    decodeWord_of_eq_encode (hexWordKk_eq_formatXkk 0x4 x kk) rfl
  exact ⟨hse, hsne, stepRuns_of_decode hse, stepRuns_of_decode hsne, fun s => onlyGoesTo_of_compareSkips rfl rfl⟩

/-- Settles O6: the two conditions are opposite, `x = y` included. -/
theorem registerSkipsCompareTwoRegisters : Obligations.RegisterSkipsCompareTwoRegisters :=
  fun x y => ⟨decodeWord_of_eq_encode (hexWord_eq_formatXyn 0x5 x y 0) rfl,
    decodeWord_of_eq_encode (hexWord_eq_formatXyn 0x9 x y 0) rfl, fun _ => onlyGoesTo_of_compareSkips rfl rfl⟩

/-! ### RET and CALL (R102, R104, R110) -/

theorem exec_ret_of_empty {s : State} (h : s.sp.val = 0) : exec .ret s = .next (s.takeError .stackUnderflow) := by
  rw [exec, execRet, (State.pop_eq_none s).2 h]
  rfl

theorem exec_ret_of_pos {s : State} (h : 0 < s.sp.val) :
    exec .ret s = .next ({ s with sp := ⟨s.sp.val - 1, by omega⟩ }.setPc (s.stack[s.sp.val - 1]'(by omega))) := by
  rw [exec, execRet, State.pop_eq_some s h]

theorem exec_call_of_full {s : State} (nnn : Addr12) (h : s.sp.val = 16) :
    exec (.call nnn) s = .next (s.takeError .stackOverflow) := by
  rw [exec, execCall, (State.push_eq_none s _).2 h]
  rfl

theorem exec_call_of_room {s : State} (nnn : Addr12) (h : s.sp.val < 16) :
    exec (.call nnn) s = .next ({ s with
      stack := s.stack.set s.sp.val (s.pc + 2), sp := ⟨s.sp.val + 1, by omega⟩ }.setPc (addrWord nnn)) := by
  rw [exec, execCall, State.push_eq_some s _ h]

/-- Settles O2, by the two cases of a pop. -/
theorem retPopsOrUnderflows : Obligations.RetPopsOrUnderflows :=
  ⟨decodeWord_of_eq_encode (i := .ret) rfl rfl, fun _ => ⟨fun hempty => raises_of_exec (exec_ret_of_empty hempty),
    fun hpos => ⟨_, exec_ret_of_pos hpos, rfl, rfl, rfl, fun _ _ => rfl, fun _ => rfl⟩⟩⟩

/-- Settles O4, by the two cases of a push; the pushed word is `pc + 2` modulo 65536. -/
theorem callPushesOrOverflows : Obligations.CallPushesOrOverflows := by
  refine fun nnn => ⟨decodeWord_of_eq_encode (hexWordNnn_eq_formatAddr 0x2 nnn) rfl,
    fun s => ⟨fun hfull => raises_of_exec (exec_call_of_full nnn hfull), fun hroom => ?_⟩⟩
  refine ⟨_, exec_call_of_room nnn hroom, addrWord_eq_ofNat nnn, rfl, ?pushed, ?kept, rfl, fun _ _ => rfl, fun _ => rfl⟩
  case pushed =>
    simp only [State.setPc_stack, Vector.getElem_set_self]
    exact BitVec.toNat_add s.pc 2
  case kept =>
    exact fun k hk hne => Vector.getElem_set_ne hroom hk hne.symm

/-- A pop right after a push: with the stack and the depth a CALL left, RET finds the pushed word and the depth before. -/
theorem exec_ret_of_pushed {u : State} {entries : Vector Word 16} {depth : Nat} {a : Word} (hdepth : depth < 16)
    (hstack : u.stack = entries.set depth a) (hsp : u.sp.val = depth + 1) :
    ∃ r, exec .ret u = .next r ∧ r.pc = a ∧ r.sp.val = depth := by
  refine ⟨_, exec_ret_of_pos (by omega), ?_, ?_⟩
  · simp [hstack, hsp]
  · simp [hsp]

/-- Settles O8: the CALL pushes `pc + 2`, and RET pops what the CALL pushed. -/
theorem callThenReturnComesBack : Obligations.CallThenReturnComesBack := by
  refine fun nnn s hroom => ⟨_, exec_call_of_room nnn hroom, fun u hstack hsp => ?_⟩
  obtain ⟨r, hr, hpc, hdepth⟩ := exec_ret_of_pushed hroom hstack (congrArg Fin.val hsp)
  exact ⟨r, hr, hpc, Fin.ext hdepth⟩

end Sys2Proof.Machine

/-! The ALU family: the two shapes an ALU instruction completes in, then the value and the flag each instruction writes. -/

namespace Sys2Proof.Machine

/-! ### Ways a register instruction can end -/

theorem regsSameExcept_setReg (s : State) (x : Reg) (b : Byte) : RegsSameExcept s (s.setReg x b).advance [x] := by
  intro z hz
  rw [State.reg_advance, State.reg_setReg, if_neg (List.ne_of_not_mem_cons hz)]

theorem regsSameExcept_setRegFlag (s : State) (x : Reg) (r : Byte) (f : Bool) :
    RegsSameExcept s (s.setRegFlag x r f).advance [x, 15] := by
  intro z hz
  obtain ⟨hx, hvf⟩ : z ≠ x ∧ z ≠ vf := by simpa using hz
  rw [State.reg_advance, State.reg_setRegFlag, if_neg hvf, if_neg hx]

theorem writesReg_of_exec {i : Instr} {s : State} {x : Reg} {b : Byte} (h : exec i s = .next (s.setReg x b).advance) :
    WritesReg i s x b := by
  refine ⟨_, h, ?_, rfl, rfl, regsSameExcept_setReg s x b, fun _ => rfl⟩
  rw [State.reg_advance, State.reg_setReg, if_pos rfl]

/-- The flag write is the last, so VF holds the flag whatever the destination, and any other destination holds the result
(R120). -/
theorem writesRegThenFlag_of_exec {i : Instr} {s : State} {x : Reg} {r : Byte} {f : Bool} {value flag : Nat}
    (h : exec i s = .next (s.setRegFlag x r f).advance) (hvalue : r.toNat = value) (hflag : (flagByte f).toNat = flag) :
    WritesRegThenFlag i s x value flag := by
  refine ⟨_, h, fun hx => ?_, ?_, rfl, rfl, regsSameExcept_setRegFlag s x r f, fun _ => rfl⟩
  · rw [State.reg_advance, State.reg_setRegFlag, if_neg hx, if_pos rfl, hvalue]
  · rw [State.reg_advance, State.reg_setRegFlag, if_pos rfl, hflag]

/-! ### Flags as numbers (R22) -/

theorem toNat_flagByte (f : Bool) : (flagByte f).toNat = f.toNat := by cases f <;> rfl

theorem toNat_flagByte_decide (p : Prop) [Decidable p] : (flagByte (decide p)).toNat = if p then 1 else 0 := by
  rw [toNat_flagByte, Bool.toNat, Bool.cond_decide]

theorem toNat_flagByte_carryOut (a b : Byte) :
    (flagByte (carryOut a b)).toNat = if a.toNat + b.toNat > 255 then 1 else 0 := toNat_flagByte_decide _

theorem toNat_flagByte_strictlyGreater (a b : Byte) :
    (flagByte (strictlyGreater a b)).toNat = if a.toNat > b.toNat then 1 else 0 := toNat_flagByte_decide _

/-- The bit a right shift loses is the remainder by 2 (R129). -/
theorem toNat_flagByte_shiftedOutRight (f : Byte) : (flagByte (shiftedOutRight f)).toNat = f.toNat % 2 := by
  rw [toNat_flagByte, shiftedOutRight, BitVec.getLsbD, Nat.toNat_testBit, pow_zero, Nat.div_one]

/-- The bit a left shift loses is the quotient by 128 (R131). -/
theorem toNat_flagByte_shiftedOutLeft (f : Byte) : (flagByte (shiftedOutLeft f)).toNat = f.toNat / 128 := by
  have hlt := f.isLt
  rw [toNat_flagByte, shiftedOutLeft, BitVec.getLsbD, Nat.toNat_testBit]
  omega

/-- A byte that is `V[y]` or `V[x]`, as `SHIFT_FLAG_SRC` says, is the shift's flag source (R11). -/
theorem State.eq_shiftFlagSource {s : State} {x y : Reg} {f : Byte} (hvy : s.cfg.shiftFlagSrc = .vy → f = s.reg y)
    (hvx : s.cfg.shiftFlagSrc = .vx → f = s.reg x) : f = s.shiftFlagSource x y := by
  unfold State.shiftFlagSource
  split
  case h_1 hsrc => exact hvy hsrc
  case h_2 hsrc => exact hvx hsrc

/-! ### Results as numbers -/

/-- A wrapping difference of bytes, without truncation (R128, R130). -/
theorem toNat_byte_sub (a b : Byte) : (a - b).toNat = (a.toNat + 256 - b.toNat) % 256 := by
  have hb := b.isLt
  rw [BitVec.toNat_sub]
  omega

theorem toNat_byte_ushiftRight_one (b : Byte) : (b >>> 1).toNat = b.toNat / 2 := by
  rw [BitVec.toNat_ushiftRight, Nat.shiftRight_one]

theorem toNat_byte_shiftLeft_one (b : Byte) : (b <<< 1).toNat = b.toNat * 2 % 256 := by
  rw [BitVec.toNat_shiftLeft, Nat.shiftLeft_eq, pow_one]

theorem byte_add_eq_ofNat (a b : Byte) : a + b = BitVec.ofNat 8 ((a.toNat + b.toNat) % 256) := by
  apply BitVec.eq_of_toNat_eq
  rw [BitVec.toNat_add, BitVec.toNat_ofNat, Nat.mod_mod]

/-! ### Loads, the immediate add and logic (R121 to R126) -/

/-- Settles O9: each of the three writes one register and no flag; the sum of two bytes is the number's own byte. -/
theorem loadsAndImmediateAddWriteOneRegister : Obligations.LoadsAndImmediateAddWriteOneRegister := by
  refine fun x y kk => ⟨decodeWord_of_eq_encode (hexWordKk_eq_formatXkk 0x6 x kk) rfl,
    decodeWord_of_eq_encode (hexWordKk_eq_formatXkk 0x7 x kk) rfl,
    decodeWord_of_eq_encode (hexWord_eq_formatXyn 0x8 x y 0x0) rfl,
    fun s => ⟨writesReg_of_exec rfl, ?_, writesReg_of_exec rfl⟩⟩
  rw [← byte_add_eq_ofNat]
  exact writesReg_of_exec rfl

/-- Settles O10: each of the three writes one register and no flag, and works bit by bit. -/
theorem logicWritesOneRegisterAndLeavesVF : Obligations.LogicWritesOneRegisterAndLeavesVF :=
  fun x y => ⟨decodeWord_of_eq_encode (hexWord_eq_formatXyn 0x8 x y 0x1) rfl,
    decodeWord_of_eq_encode (hexWord_eq_formatXyn 0x8 x y 0x2) rfl,
    decodeWord_of_eq_encode (hexWord_eq_formatXyn 0x8 x y 0x3) rfl,
    fun _ => ⟨_, _, _, writesReg_of_exec rfl, writesReg_of_exec rfl, writesReg_of_exec rfl,
      fun _ _ => ⟨BitVec.getLsbD_or, BitVec.getLsbD_and, BitVec.getLsbD_xor⟩⟩⟩

/-! ### Arithmetic between registers (R127, R128, R130) -/

/-- Settles O11: the sum wraps and the carry is written last. -/
theorem addRegistersSetsCarry : Obligations.AddRegistersSetsCarry :=
  fun x y => ⟨decodeWord_of_eq_encode (hexWord_eq_formatXyn 0x8 x y 0x4) rfl,
    fun s => writesRegThenFlag_of_exec rfl (BitVec.toNat_add _ _) (toNat_flagByte_carryOut (s.reg x) (s.reg y))⟩

/-- Settles O12: SUB and SUBN are one subtraction with the operands exchanged. -/
theorem subtractsSetStrictBorrowFlag : Obligations.SubtractsSetStrictBorrowFlag :=
  fun x y => ⟨decodeWord_of_eq_encode (hexWord_eq_formatXyn 0x8 x y 0x5) rfl,
    decodeWord_of_eq_encode (hexWord_eq_formatXyn 0x8 x y 0x7) rfl, fun s =>
    ⟨writesRegThenFlag_of_exec rfl (toNat_byte_sub _ _) (toNat_flagByte_strictlyGreater (s.reg x) (s.reg y)),
      writesRegThenFlag_of_exec rfl (toNat_byte_sub _ _) (toNat_flagByte_strictlyGreater (s.reg y) (s.reg x))⟩⟩

/-! ### Shifts (R129, R131) -/

/-- Settles O13: the value comes from `V[y]`, the flag from the source the parameter names. -/
theorem shiftsTakeVyAndSetTheShiftedOutBit : Obligations.ShiftsTakeVyAndSetTheShiftedOutBit := by
  refine fun x y => ⟨decodeWord_of_eq_encode (hexWord_eq_formatXyn 0x8 x y 0x6) rfl,
    decodeWord_of_eq_encode (hexWord_eq_formatXyn 0x8 x y 0xE) rfl, fun s f hvy hvx => ?_⟩
  rw [State.eq_shiftFlagSource hvy hvx]
  exact ⟨writesRegThenFlag_of_exec rfl (toNat_byte_ushiftRight_one _) (toNat_flagByte_shiftedOutRight _),
    writesRegThenFlag_of_exec rfl (toNat_byte_shiftLeft_one _) (toNat_flagByte_shiftedOutLeft _)⟩

/-! ### The random byte (R132) -/

/-- Settles O14: RND writes the masked draw in the state with the draw counted, whatever the draw is. -/
theorem rndMasksAFreeByte : Obligations.RndMasksAFreeByte := by
  refine fun x kk => ⟨decodeWord_of_eq_encode (hexWordKk_eq_formatXkk 0xC x kk) rfl, fun s => ?_⟩
  have hreg : (s.draw.2.random x kk s.draw.1).reg x = Config.draw8 s.draws &&& kk := by
    rw [State.reg_random, if_pos rfl]
    rfl
  refine ⟨_, rfl, hreg, fun k hk => ?_, rfl, rfl, rfl, regsSameExcept_setReg s.draw.2 x _, fun _ => rfl⟩
  rw [hreg, BitVec.getLsbD_and, Bool.and_eq_true] at hk
  exact hk.2

end Sys2Proof.Machine

/-! The display family: drawing as a relation between canvases, which the pixel form and the byte form both meet, and what DRW
and CLS do to the framebuffer. -/

namespace Sys2Proof.Machine

/-! ### CLS (R140) -/

theorem pix_replicate_zero (px : Fin 64) (py : Fin 32) : pix (Vector.replicate 256 0) px py = false := by
  rw [pix, Vector.getElem_replicate]
  exact BitVec.getLsbD_zero

/-- Settles O16: CLS puts a framebuffer of zero bytes in place of the old one. -/
theorem clsClearsTheFramebuffer : Obligations.ClsClearsTheFramebuffer :=
  ⟨decodeWord_of_eq_encode (i := .cls) rfl rfl, fun _ => ⟨_, rfl, fun _ hk => Vector.getElem_replicate hk,
    pix_replicate_zero, rfl, rfl, fun _ _ => rfl, fun _ => rfl⟩⟩

/-! ### Drawing as a relation (R141, R143) -/

/-- Drawing the pixels of `P` on `cv` gives `cv'`: each is toggled, every other is kept, and a lit one collides. -/
structure Drawn (P : Fin 64 → Fin 32 → Prop) (cv cv' : Canvas) : Prop where
  pix_iff : ∀ px py, pix cv'.fb px py = true ↔ ¬ (pix cv.fb px py = true ↔ P px py)
  coll_iff : cv'.coll = true ↔ cv.coll = true ∨ ∃ px py, pix cv.fb px py = true ∧ P px py

theorem Drawn.congr {P Q : Fin 64 → Fin 32 → Prop} {cv cv' : Canvas} (h : Drawn P cv cv')
    (hPQ : ∀ px py, P px py ↔ Q px py) : Drawn Q cv cv' := by
  have heq : P = Q := funext fun px => funext fun py => propext (hPQ px py)
  exact heq ▸ h

/-- What is drawn fixes the canvas. -/
theorem Drawn.unique {P : Fin 64 → Fin 32 → Prop} {cv a b : Canvas} (ha : Drawn P cv a) (hb : Drawn P cv b) : a = b := by
  have hfb : a.fb = b.fb := fb_eq_of_pix fun px py =>
    Bool.eq_iff_iff.2 ((ha.pix_iff px py).trans (hb.pix_iff px py).symm)
  have hcoll : a.coll = b.coll := Bool.eq_iff_iff.2 (ha.coll_iff.trans hb.coll_iff.symm)
  rw [Canvas.mk.injEq]
  exact ⟨hfb, hcoll⟩

theorem drawn_nothing (cv : Canvas) : Drawn (fun _ _ => False) cv cv where
  pix_iff px py := by simp
  coll_iff := by simp

/-- A pixel that is not drawn keeps its value. -/
theorem Drawn.pix_of_not {P : Fin 64 → Fin 32 → Prop} {cv cv' : Canvas} (h : Drawn P cv cv') {px : Fin 64} {py : Fin 32}
    (hP : ¬ P px py) : pix cv'.fb px py = true ↔ pix cv.fb px py = true := by
  simp [h.pix_iff, hP]

/-- A pixel that is drawn takes the other value. -/
theorem Drawn.pix_of_mem {P : Fin 64 → Fin 32 → Prop} {cv cv' : Canvas} (h : Drawn P cv cv') {px : Fin 64} {py : Fin 32}
    (hP : P px py) : pix cv'.fb px py = true ↔ pix cv.fb px py = false := by
  simp [h.pix_iff, hP]

/-- Two drawings that share no pixel are one drawing of the pixels of both. -/
theorem Drawn.trans {P Q : Fin 64 → Fin 32 → Prop} {a b c : Canvas} (hab : Drawn P a b) (hbc : Drawn Q b c)
    (hdisj : ∀ px py, P px py → ¬ Q px py) : Drawn (fun px py => P px py ∨ Q px py) a c where
  pix_iff px py := by
    have := hdisj px py
    rw [hbc.pix_iff, hab.pix_iff]
    tauto
  coll_iff := by
    have hlit : ∀ px py, (pix b.fb px py = true ∧ Q px py) ↔ (pix a.fb px py = true ∧ Q px py) := fun px py =>
      and_congr_left fun hQ => hab.pix_of_not fun hP => hdisj px py hP hQ
    simp only [hbc.coll_iff, hab.coll_iff, hlit, and_or_left, exists_or, or_assoc]

/-- With no collision so far, a drawing collides exactly if it meets a lit pixel (R143). -/
theorem Drawn.coll_eq_true_iff {P : Fin 64 → Fin 32 → Prop} {fb : Framebuffer} {cv : Canvas} (h : Drawn P ⟨fb, false⟩ cv) :
    cv.coll = true ↔ ∃ px py, pix fb px py = true ∧ P px py := by
  simpa using h.coll_iff

/-- The same pixels drawn twice: the framebuffer is the first one (R144). -/
theorem Drawn.fb_eq_of_twice {P : Fin 64 → Fin 32 → Prop} {a b b' c : Canvas} (hab : Drawn P a b) (hbc : Drawn P b' c)
    (hb : b'.fb = b.fb) : c.fb = a.fb := by
  refine fb_eq_of_pix fun px py => Bool.eq_iff_iff.2 ?_
  rw [hbc.pix_iff, hb, hab.pix_iff]
  tauto

/-! ### One row, pixel by pixel (R141) -/

/-- A sprite row at column `x0` of row `y` has a 1 bit on the pixel. -/
def RowCovers (b : Byte) (x0 : Nat) (y : Fin 32) (px : Fin 64) (py : Fin 32) : Prop :=
  ∃ c : Fin 8, b.getLsbD (7 - c.val) = true ∧ px = column (x0 + c.val) ∧ py = y

theorem drawn_drawRow (b : Byte) (x0 : Nat) (y : Fin 32) (cv : Canvas) :
    Drawn (RowCovers b x0 y) cv (drawRow b x0 y cv) := by
  obtain ⟨hpix, hcoll⟩ := drawRow_spec b x0 y cv
  constructor
  case pix_iff =>
    intro px py
    rw [hpix, RowCovers]
    by_cases hlit : pix cv.fb px py = true <;> simp [hlit]
  case coll_iff =>
    rw [hcoll, Bool.or_eq_true, decide_eq_true_eq]
    refine or_congr_right ⟨?_, ?_⟩
    · rintro ⟨c, hbit, hlit⟩
      exact ⟨_, _, hlit, c, hbit, rfl, rfl⟩
    · rintro ⟨_, _, hlit, c, hbit, rfl, rfl⟩
      exact ⟨c, hbit, hlit⟩

/-! ### A whole sprite (R141) -/

/-- Some row of a sprite, whose first row is row `r`, has a 1 bit on the pixel. -/
def RowsCover (x0 y0 r : Nat) (sprite : List Byte) (px : Fin 64) (py : Fin 32) : Prop :=
  ∃ p ∈ sprite.zipIdx r, RowCovers p.1 x0 (row (y0 + p.2)) px py

theorem rowsCover_cons (x0 y0 r : Nat) (b : Byte) (bs : List Byte) (px : Fin 64) (py : Fin 32) :
    RowsCover x0 y0 r (b :: bs) px py ↔ RowCovers b x0 (row (y0 + r)) px py ∨ RowsCover x0 y0 (r + 1) bs px py := by
  simp only [RowsCover, List.zipIdx_cons, List.exists_mem_cons_iff]

/-- At most 32 rows lie on different rows of the screen, so the first row and the rows after it share no pixel. -/
theorem rowCovers_disjoint_rowsCover {x0 y0 r : Nat} {b : Byte} {bs : List Byte} (h : bs.length < 32) {px : Fin 64}
    {py : Fin 32} (hb : RowCovers b x0 (row (y0 + r)) px py) : ¬ RowsCover x0 y0 (r + 1) bs px py := by
  rintro ⟨⟨b', k⟩, hmem, _, _, _, hpy'⟩
  obtain ⟨_, _, _, hpy⟩ := hb
  have hrow : (y0 + k) % 32 = (y0 + r) % 32 := congrArg Fin.val (hpy'.symm.trans hpy)
  have hle := List.le_snd_of_mem_zipIdx hmem
  have hlt := List.snd_lt_of_mem_zipIdx hmem
  simp only at hle hlt
  omega

theorem drawn_drawRows (x0 y0 r : Nat) (sprite : List Byte) (h : sprite.length ≤ 32) (cv : Canvas) :
    Drawn (RowsCover x0 y0 r sprite) cv (drawRows x0 y0 r sprite cv) := by
  induction sprite generalizing r cv with
  | nil => exact (drawn_nothing cv).congr fun px py => by simp [RowsCover]
  | cons b bs ih =>
    have hlen : bs.length < 32 := h
    have hrest := ih (r + 1) hlen.le (drawRow b x0 (row (y0 + r)) cv)
    exact ((drawn_drawRow b x0 _ cv).trans hrest fun _ _ => rowCovers_disjoint_rowsCover hlen).congr
      fun px py => (rowsCover_cons x0 y0 r b bs px py).symm

/-! ### DRW (R141) -/

theorem State.mem_zipIdx_readAtI (s : State) (n : Nat) (b : Byte) (r : Nat) :
    (b, r) ∈ (s.readAtI n).zipIdx ↔ r < n ∧ b = s.readMem (s.effAddr r) := by
  rw [List.mem_zipIdx_iff_getElem?, List.getElem?_eq_some_iff]
  simp only [State.readAtI, Memory.length_readBlock, Memory.getElem_readBlock]
  exact ⟨fun ⟨hr, hb⟩ => ⟨hr, hb.symm⟩, fun ⟨hr, hb⟩ => ⟨hr, hb.symm⟩⟩

theorem rowsCover_readAtI (s : State) (x0 y0 n : Nat) (px : Fin 64) (py : Fin 32) :
    RowsCover x0 y0 0 (s.readAtI n) px py ↔ SpriteCovers s x0 y0 n px py := by
  constructor
  · rintro ⟨⟨b, r⟩, hmem, c, hbit, rfl, rfl⟩
    obtain ⟨hr, rfl⟩ := (s.mem_zipIdx_readAtI n b r).1 hmem
    exact ⟨r, c.val, hr, c.isLt, rfl, rfl, hbit⟩
  · rintro ⟨r, c, hr, hc, hpx, hpy, hbit⟩
    exact ⟨(_, r), (s.mem_zipIdx_readAtI n _ r).2 ⟨hr, rfl⟩, ⟨c, hc⟩, hbit, Fin.ext hpx, Fin.ext hpy⟩

/-- A sprite in memory: DRW completes with the pixels the sprite covers drawn. -/
theorem exec_drw_of_fits {x y : Reg} {n : Height} {s : State} (h : n.val = 0 ∨ s.effAddr (n.val - 1) < s.cfg.memSize) :
    ∃ cv, Drawn (SpriteCovers s (s.reg x).toNat (s.reg y).toNat n.val) ⟨s.fb, false⟩ cv ∧
      exec (.drw x y n) s = .next (s.setCanvas cv).advance := by
  have hfits : s.blockInMem n.val = true := by
    rw [State.effAddr] at h
    rw [blockInMem_iff]
    omega
  have hlen : (s.readAtI n.val).length ≤ 32 := by
    rw [State.readAtI, Memory.length_readBlock]
    omega
  refine ⟨_, (drawn_drawRows (s.reg x).toNat (s.reg y).toNat 0 (s.readAtI n.val) hlen _).congr
    (rowsCover_readAtI s _ _ n.val), ?_⟩
  rw [exec, execDrw, if_pos hfits, drawSprite]

/-- A sprite that reaches past memory: DRW raises before anything changes (R55). -/
theorem exec_drw_of_outside {x y : Reg} {n : Height} {s : State} (hn : 0 < n.val)
    (h : s.cfg.memSize ≤ s.effAddr (n.val - 1)) : exec (.drw x y n) s = .next (s.takeError (.unspecified .dataOob)) := by
  have hout : ¬ s.blockInMem n.val = true := by
    rw [State.effAddr] at h
    rw [blockInMem_iff]
    omega
  rw [exec, execDrw, if_neg hout, unspecified, raise]

theorem State.reg_drawn_vf (s : State) (cv : Canvas) : (s.setCanvas cv).advance.reg 15 = flagByte cv.coll := by
  rw [State.reg_advance, State.reg_setCanvas, if_pos rfl]

theorem State.reg_drawn_of_ne (s : State) (cv : Canvas) {z : Reg} (hz : z ≠ 15) :
    (s.setCanvas cv).advance.reg z = s.reg z := by
  rw [State.reg_advance, State.reg_setCanvas, if_neg hz]

/-- Settles O17: the sprite's rows share no pixel, so drawing them one after another draws what the sprite covers. -/
theorem drwTogglesExactlyTheSpritePixels : Obligations.DrwTogglesExactlyTheSpritePixels := by
  refine fun x y n => ⟨decodeWord_of_eq_encode (hexWord_eq_formatXyn 0xD x y n) rfl,
    fun s => ⟨fun hn hout => raises_of_exec (exec_drw_of_outside hn hout), fun hfits => ?_⟩⟩
  obtain ⟨cv, hcv, hexec⟩ := exec_drw_of_fits (x := x) (y := y) hfits
  refine ⟨_, hexec, hcv.pix_iff, fun hlit => ?_, fun hdark => ?_, rfl, rfl, fun z hz => ?_, fun _ => rfl⟩
  · rw [State.reg_drawn_vf, hcv.coll_eq_true_iff.2 hlit]
    rfl
  · rw [State.reg_drawn_vf, Bool.eq_false_iff.2 fun hcoll => hdark (hcv.coll_eq_true_iff.1 hcoll)]
    rfl
  · exact State.reg_drawn_of_ne s cv (List.ne_of_not_mem_cons hz)

/-! ### The same draw twice (R144) -/

theorem flagByte_eq_one_iff (f : Bool) : flagByte f = 1 ↔ f = true := by cases f <;> decide

theorem byte_ne_zero_iff (b : Byte) : b ≠ 0 ↔ ∃ k < 8, b.getLsbD k = true := by
  constructor
  · intro h
    by_contra hnone
    refine h (BitVec.eq_of_getLsbD_eq fun k hk => ?_)
    rw [BitVec.ofNat_eq_ofNat, BitVec.getLsbD_zero]
    exact Bool.eq_false_iff.2 fun hbit => hnone ⟨k, hk, hbit⟩
  · rintro ⟨k, _, hbit⟩ rfl
    simp at hbit

/-- A row of the sprite that is not zero covers some pixel. -/
theorem exists_spriteCovers {s : State} {r n : Nat} (hr : r < n) (hbyte : s.readMem (s.effAddr r) ≠ 0) (x0 y0 : Nat) :
    ∃ px py, SpriteCovers s x0 y0 n px py := by
  obtain ⟨k, hk, hbit⟩ := (byte_ne_zero_iff _).1 hbyte
  refine ⟨column (x0 + (7 - k)), row (y0 + r), r, 7 - k, hr, by omega, rfl, rfl, ?_⟩
  rwa [show 7 - (7 - k) = k by omega]

/-- Settles O19: the first draw keeps the coordinates and the sprite, so the second draws the same pixels; of these it finds
lit exactly those that were dark at first. -/
theorem drawingTwiceRestoresThePixels : Obligations.DrawingTwiceRestoresThePixels := by
  intro x y n s hx hy hfits
  obtain ⟨cv, hcv, hexec⟩ := exec_drw_of_fits (x := x) (y := y) hfits
  obtain ⟨cv', hcv', hexec'⟩ := exec_drw_of_fits (x := x) (y := y) (s := (s.setCanvas cv).advance) hfits
  rw [State.reg_drawn_of_ne s cv hx, State.reg_drawn_of_ne s cv hy] at hcv'
  replace hcv' : Drawn (SpriteCovers s (s.reg x).toNat (s.reg y).toNat n.val) ⟨cv.fb, false⟩ cv' := hcv'
  have hflag : (((s.setCanvas cv).advance.setCanvas cv').advance.reg 15 = 1 ↔
      ∃ px py, pix s.fb px py = false ∧ SpriteCovers s (s.reg x).toNat (s.reg y).toNat n.val px py) := by
    rw [State.reg_drawn_vf, flagByte_eq_one_iff, hcv'.coll_eq_true_iff]
    exact exists_congr fun px => exists_congr fun py => and_congr_left fun hcov => hcv.pix_of_mem hcov
  refine ⟨_, _, hexec, hexec', hcv.fb_eq_of_twice hcv' rfl, hflag, ?_⟩
  rintro hclear ⟨r, hr, hbyte⟩
  obtain ⟨px, py, hcov⟩ := exists_spriteCovers hr hbyte (s.reg x).toNat (s.reg y).toNat
  exact hflag.2 ⟨px, py, by rw [hclear, pix_replicate_zero], hcov⟩

/-! ### Drawing by framebuffer bytes (R142) -/

/-- One framebuffer byte exclusive-or a mask, with the collision it makes: what R142 does to each of its two bytes. -/
def xorByte (i : Fin 256) (mask : Byte) (cv : Canvas) : Canvas :=
  { fb := cv.fb.set i.val (cv.fb[i.val] ^^^ mask), coll := cv.coll || cv.fb[i.val] &&& mask != 0 }

/-- The pixels of one framebuffer byte under the 1 bits of a mask. -/
def MaskCovers (i : Fin 256) (mask : Byte) (px : Fin 64) (py : Fin 32) : Prop :=
  pixelByte px py = i ∧ mask.getLsbD (pixelBit px) = true

theorem pix_of_pixelByte {fb : Framebuffer} {i : Fin 256} {px : Fin 64} {py : Fin 32} (h : pixelByte px py = i) :
    pix fb px py = fb[i.val].getLsbD (pixelBit px) := by
  subst h
  rfl

/-- Every bit of every framebuffer byte is a pixel (R31). -/
theorem exists_pixel (i : Fin 256) {k : Nat} (hk : k < 8) : ∃ px py, pixelByte px py = i ∧ pixelBit px = k := by
  refine ⟨⟨i.val % 8 * 8 + (7 - k), by omega⟩, ⟨i.val / 8, by omega⟩, Fin.ext ?_, ?_⟩
  · simp only [pixelByte]
    omega
  · simp only [pixelBit]
    omega

theorem drawn_xorByte (i : Fin 256) (mask : Byte) (cv : Canvas) : Drawn (MaskCovers i mask) cv (xorByte i mask cv) where
  pix_iff px py := by
    by_cases hi : pixelByte px py = i
    · rw [pix_of_pixelByte hi, pix_of_pixelByte hi, xorByte, Vector.getElem_set_self, BitVec.getLsbD_xor, MaskCovers]
      simp [hi]
    · have hne : i.val ≠ (pixelByte px py).val := fun h => hi (Fin.ext h.symm)
      rw [pix, xorByte, Vector.getElem_set_ne _ _ hne, MaskCovers]
      simp [hi, pix]
  coll_iff := by
    rw [xorByte, Bool.or_eq_true, bne_iff_ne, byte_ne_zero_iff]
    refine or_congr_right ⟨?_, ?_⟩
    · rintro ⟨k, hk, hbit⟩
      obtain ⟨px, py, hi, rfl⟩ := exists_pixel i hk
      rw [BitVec.getLsbD_and, Bool.and_eq_true] at hbit
      exact ⟨px, py, by rw [pix_of_pixelByte hi, hbit.1], hi, hbit.2⟩
    · rintro ⟨px, py, hlit, hi, hbit⟩
      refine ⟨pixelBit px, by rw [pixelBit]; omega, ?_⟩
      rw [BitVec.getLsbD_and, ← pix_of_pixelByte hi, hlit, hbit, Bool.and_true]

theorem xorByte_zero (i : Fin 256) (cv : Canvas) : xorByte i 0 cv = cv := by
  simp [xorByte]

theorem pixelByte_eq_iff (px qx : Fin 64) (py qy : Fin 32) :
    pixelByte px py = pixelByte qx qy ↔ px.val / 8 = qx.val / 8 ∧ py = qy := by
  refine ⟨fun h => (pixelByte_inj (congrArg Fin.val h)).symm, ?_⟩
  rintro ⟨hcol, rfl⟩
  simp only [pixelByte, hcol]

/-- The two byte columns a sprite row touches are different, the right one wrapped or not. -/
theorem pixelByte_column_ne (x0 : Nat) (y : Fin 32) : pixelByte (column x0) y ≠ pixelByte (column (x0 + 8)) y := by
  intro h
  have hcol := ((pixelByte_eq_iff _ _ _ _).1 h).1
  simp only [column] at hcol
  omega

/-- R142's row is its left byte and then its right byte, each exclusive-or its mask. -/
theorem drawRowBytes_eq (b : Byte) (x0 : Nat) (y : Fin 32) (cv : Canvas) :
    drawRowBytes b x0 y cv = xorByte (pixelByte (column (x0 + 8)) y) (b <<< (8 - x0 % 8))
      (xorByte (pixelByte (column x0) y) (b >>> (x0 % 8)) cv) := by
  by_cases hs : x0 % 8 = 0
  · have hright : b <<< (8 - x0 % 8) = 0 := by
      rw [hs]
      exact BitVec.shiftLeft_eq_zero (Nat.le_refl 8)
    rw [hright, xorByte_zero, drawRowBytes, hright, if_pos hs]
    simp [xorByte]
  · have hne : (pixelByte (column x0) y).val ≠ (pixelByte (column (x0 + 8)) y).val := fun h =>
      pixelByte_column_ne x0 y (Fin.ext h)
    simp only [drawRowBytes, xorByte, if_neg hs, Vector.getElem_set_ne _ _ hne, Bool.or_assoc]

/-- The left mask covers what the row's bits before the byte boundary cover. -/
theorem maskCovers_left_iff (b : Byte) (x0 : Nat) (y : Fin 32) (px : Fin 64) (py : Fin 32) :
    MaskCovers (pixelByte (column x0) y) (b >>> (x0 % 8)) px py ↔
      ∃ c : Fin 8, x0 % 8 + c.val < 8 ∧ b.getLsbD (7 - c.val) = true ∧ px = column (x0 + c.val) ∧ py = y := by
  simp only [MaskCovers, pixelByte_eq_iff, pixelBit, BitVec.getLsbD_ushiftRight, column]
  constructor
  · rintro ⟨⟨hcol, rfl⟩, hbit⟩
    have hlt := BitVec.lt_of_getLsbD hbit
    refine ⟨⟨px.val % 8 - x0 % 8, by omega⟩, by simp only; omega, ?_, Fin.ext (by simp only; omega), rfl⟩
    rwa [show 7 - (px.val % 8 - x0 % 8) = x0 % 8 + (7 - px.val % 8) by omega]
  · rintro ⟨c, hc, hbit, rfl, rfl⟩
    refine ⟨⟨by simp only; omega, rfl⟩, ?_⟩
    rwa [show x0 % 8 + (7 - (x0 + c.val) % 64 % 8) = 7 - c.val by omega]

/-- The right mask covers what the row's bits after the byte boundary cover. -/
theorem maskCovers_right_iff (b : Byte) (x0 : Nat) (y : Fin 32) (px : Fin 64) (py : Fin 32) :
    MaskCovers (pixelByte (column (x0 + 8)) y) (b <<< (8 - x0 % 8)) px py ↔
      ∃ c : Fin 8, ¬ x0 % 8 + c.val < 8 ∧ b.getLsbD (7 - c.val) = true ∧ px = column (x0 + c.val) ∧ py = y := by
  simp only [MaskCovers, pixelByte_eq_iff, pixelBit, BitVec.getLsbD_shiftLeft, column, Bool.and_eq_true,
    decide_eq_true_eq, Bool.not_eq_true', decide_eq_false_iff_not]
  constructor
  · rintro ⟨⟨hcol, rfl⟩, ⟨_, hge⟩, hbit⟩
    refine ⟨⟨px.val % 8 + 8 - x0 % 8, by omega⟩, by simp only; omega, ?_, Fin.ext (by simp only; omega), rfl⟩
    rwa [show 7 - (px.val % 8 + 8 - x0 % 8) = 7 - px.val % 8 - (8 - x0 % 8) by omega]
  · rintro ⟨c, hc, hbit, rfl, rfl⟩
    refine ⟨⟨by simp only; omega, rfl⟩, ⟨by omega, by simp only; omega⟩, ?_⟩
    rwa [show 7 - (x0 + c.val) % 64 % 8 - (8 - x0 % 8) = 7 - c.val by omega]

/-- The two masks cover what the row covers: each bit lies before the byte boundary or after it. -/
theorem maskCovers_or_iff_rowCovers (b : Byte) (x0 : Nat) (y : Fin 32) (px : Fin 64) (py : Fin 32) :
    (MaskCovers (pixelByte (column x0) y) (b >>> (x0 % 8)) px py ∨
      MaskCovers (pixelByte (column (x0 + 8)) y) (b <<< (8 - x0 % 8)) px py) ↔ RowCovers b x0 y px py := by
  rw [maskCovers_left_iff, maskCovers_right_iff, ← exists_or, RowCovers]
  exact exists_congr fun c => by tauto

theorem drawn_drawRowBytes (b : Byte) (x0 : Nat) (y : Fin 32) (cv : Canvas) :
    Drawn (RowCovers b x0 y) cv (drawRowBytes b x0 y cv) := by
  rw [drawRowBytes_eq]
  refine ((drawn_xorByte _ _ cv).trans (drawn_xorByte _ _ _) ?_).congr (maskCovers_or_iff_rowCovers b x0 y)
  rintro px py ⟨hleft, _⟩ ⟨hright, _⟩
  exact pixelByte_column_ne x0 y (hleft.symm.trans hright)

/-- Settles O18: row by row, both forms draw the pixels the row covers, and what is drawn fixes the canvas. -/
theorem drawByBytesAgreesWithDrawByPixels : Obligations.DrawByBytesAgreesWithDrawByPixels := by
  intro x0 y0 r sprite cv
  induction sprite generalizing r cv with
  | nil => rfl
  | cons b bs ih => rw [drawRowsBytes, drawRows, ih, (drawn_drawRowBytes b x0 _ cv).unique (drawn_drawRow b x0 _ cv)]

end Sys2Proof.Machine

/-! The keypad family: the key skips on a key code and on a byte that is none, and the key wait with a key down and with none. -/

namespace Sys2Proof.Machine

/-! ### SKP and SKNP (R150 to R152) -/

theorem exec_skp_of_code {x : Reg} {s : State} (h : (s.reg x).toNat < 16) :
    exec (.skp x) s = .next (s.skipIf s.keys[(s.reg x).toNat]) := by
  rw [exec, execSkp, hexDigit_of_lt h]
  rfl

theorem exec_sknp_of_code {x : Reg} {s : State} (h : (s.reg x).toNat < 16) :
    exec (.sknp x) s = .next (s.skipIf (!s.keys[(s.reg x).toNat])) := by
  rw [exec, execSknp, hexDigit_of_lt h]
  rfl

theorem exec_skp_of_noCode {x : Reg} {s : State} (h : 16 ≤ (s.reg x).toNat) :
    exec (.skp x) s = .next (s.takeError (.unspecified .keyIndex)) := by
  rw [exec, execSkp, hexDigit_of_ge h]
  rfl

theorem exec_sknp_of_noCode {x : Reg} {s : State} (h : 16 ≤ (s.reg x).toNat) :
    exec (.sknp x) s = .next (s.takeError (.unspecified .keyIndex)) := by
  rw [exec, execSknp, hexDigit_of_ge h]
  rfl

/-- Settles O20: a whole byte below 0x10 is a key code, and the two skip on opposite states of its key; any other byte is no
code, and both raise. -/
theorem keySkipsTestOneKey : Obligations.KeySkipsTestOneKey :=
  fun x => ⟨decodeWord_of_eq_encode (hexWordKk_eq_formatXkk 0xE x 0x9E) rfl,
    decodeWord_of_eq_encode (hexWordKk_eq_formatXkk 0xE x 0xA1) rfl,
    fun _ => ⟨fun hnone => ⟨raises_of_exec (exec_skp_of_noCode hnone), raises_of_exec (exec_sknp_of_noCode hnone)⟩,
      fun hcode => onlyGoesTo_of_oppositeSkips (exec_skp_of_code hcode) (exec_sknp_of_code hcode)⟩⟩

/-! ### LD Vx, K (R153) -/

theorem exec_ldVxK_of_lowest {x : Reg} {s : State} {k : Fin 16} (h : s.lowestKey = some k) :
    exec (.ldVxK x) s = .next (s.setReg x (BitVec.ofNat 8 k.val)).advance := by
  rw [exec, execLdVxK, h]

theorem exec_ldVxK_of_noKey {x : Reg} {s : State} (h : s.lowestKey = none) : exec (.ldVxK x) s = .next s := by
  rw [exec, execLdVxK, h]

/-- Settles O21: the scan finds the lowest key that is down or none, and the word decodes, so a drain iteration is charged
either way. -/
theorem keyWaitTakesTheLowestKeyOrPolls : Obligations.KeyWaitTakesTheLowestKeyOrPolls := by
  intro x
  have hdec : decodeWord (hexWordKk 0xF x.val 0x0A) = .ok (.ldVxK x) :=
    decodeWord_of_eq_encode (hexWordKk_eq_formatXkk 0xF x 0x0A) rfl
  refine ⟨hdec, stepRuns_of_decode hdec, fun s => ⟨fun k hdown hbelow => ?_, fun hup => ?_⟩⟩
  · exact writesReg_of_exec (exec_ldVxK_of_lowest ((s.lowestKey_eq_some k).2 ⟨hdown, hbelow⟩))
  · exact exec_ldVxK_of_noKey (s.lowestKey_eq_none.2 hup)

end Sys2Proof.Machine

/-! The timer, index and memory family: the write of `I` alone, the two ways an access through `I` ends, what a store leaves
in memory byte by byte, and the load that gives a dump back. -/

namespace Sys2Proof.Machine

/-! ### LD I, ADD I and LD F (R160, R164, R165) -/

theorem writesIndex_of_exec {i : Instr} {s : State} {a : Word} {value : Nat}
    (h : exec i s = .next { s with i := a }.advance) (ha : a.toNat = value) : WritesIndex i s value :=
  ⟨_, h, ha, rfl, rfl, fun _ _ => rfl, fun _ => rfl⟩

theorem toNat_addrWord (nnn : Addr12) : (addrWord nnn).toNat = nnn.toNat := BitVec.toNat_setWidth_of_le (by decide)

theorem toNat_add_byteWord (a : Word) (b : Byte) : (a + byteWord b).toNat = (a.toNat + b.toNat) % 65536 := by
  rw [BitVec.toNat_add, byteWord, BitVec.toNat_setWidth_of_le (by decide)]

/-- Settles O22: both end in a write of `I`, the zero-extended field or the sum of two words, which wraps. -/
theorem indexLoadsAndAdds : Obligations.IndexLoadsAndAdds :=
  ⟨fun nnn => ⟨decodeWord_of_eq_encode (hexWordNnn_eq_formatAddr 0xA nnn) rfl,
      fun _ => writesIndex_of_exec rfl (toNat_addrWord nnn)⟩,
    fun x => ⟨decodeWord_of_eq_encode (hexWordKk_eq_formatXkk 0xF x 0x1E) rfl,
      fun s => writesIndex_of_exec rfl (toNat_add_byteWord s.i (s.reg x))⟩⟩

/-- The whole font lies below `LOAD_ADDR`, so the last glyph starts at 0x1FB at most (R6). -/
theorem fontBase_add_le (c : Config) {d : Nat} (hd : d < 16) : c.fontBase.val + 5 * d ≤ 0x1FB := by
  have hbase := c.fontBase.isLt
  omega

theorem toNat_glyphAddr (c : Config) (d : Fin 16) : (glyphAddr c d).toNat = c.fontBase.val + 5 * d.val := by
  have hle := fontBase_add_le c d.isLt
  exact Nat.mod_eq_of_lt (by omega)

theorem exec_ldF_of_digit {x : Reg} {s : State} (h : (s.reg x).toNat < 16) :
    exec (.ldF x) s = .next { s with i := glyphAddr s.cfg ⟨(s.reg x).toNat, h⟩ }.advance := by
  rw [exec, execLdF, hexDigit_of_lt h]

theorem exec_ldF_of_noDigit {x : Reg} {s : State} (h : 16 ≤ (s.reg x).toNat) :
    exec (.ldF x) s = .next (s.takeError (.unspecified .fontDigit)) := by
  rw [exec, execLdF, hexDigit_of_ge h]
  rfl

/-- Settles O23: a byte is a hexadecimal digit and selects a glyph, or is none and raises. -/
theorem ldFPointsAtTheGlyph : Obligations.LdFPointsAtTheGlyph := by
  refine fun x => ⟨decodeWord_of_eq_encode (hexWordKk_eq_formatXkk 0xF x 0x29) rfl, fun s => ⟨fun hle => ?_, fun hgt => ?_⟩⟩
  · have hdigit : (s.reg x).toNat < 16 := Nat.lt_succ_of_le hle
    exact ⟨writesIndex_of_exec (exec_ldF_of_digit hdigit) (toNat_glyphAddr s.cfg _), fontBase_add_le s.cfg hdigit⟩
  · exact raises_of_exec (exec_ldF_of_noDigit hgt)

/-! ### The timer moves (R161 to R163) -/

/-- Settles O24: each move ends in one write, to a register or to a timer. -/
theorem timerMovesCopyOneByte : Obligations.TimerMovesCopyOneByte :=
  fun x => ⟨decodeWord_of_eq_encode (hexWordKk_eq_formatXkk 0xF x 0x07) rfl,
    decodeWord_of_eq_encode (hexWordKk_eq_formatXkk 0xF x 0x15) rfl,
    decodeWord_of_eq_encode (hexWordKk_eq_formatXkk 0xF x 0x18) rfl,
    fun _ => ⟨writesReg_of_exec rfl, ⟨_, rfl, rfl, rfl, rfl, rfl, fun _ _ => rfl, fun _ => rfl⟩,
      ⟨_, rfl, rfl, rfl, rfl, rfl, fun _ _ => rfl, fun _ => rfl⟩⟩⟩

/-! ### Accesses through `I` (R55, R169)

LD B, LD [I] and LD Vx,[I] test a block of at least one byte before anything changes: it exists when its last byte does. -/

theorem blockInMem_succ_iff (s : State) (n : Nat) : s.blockInMem (n + 1) = true ↔ s.effAddr n < s.cfg.memSize := by
  rw [blockInMem_iff, State.effAddr]
  omega

theorem exec_of_blockInMem {i : Instr} {s t : State} {n : Nat}
    (hexec : exec i s = if s.blockInMem (n + 1) then .next t else unspecified .dataOob s)
    (h : s.effAddr n < s.cfg.memSize) : exec i s = .next t := by
  rw [hexec, if_pos ((blockInMem_succ_iff s n).2 h)]

theorem raises_of_blockOutside {i : Instr} {s t : State} {n : Nat}
    (hexec : exec i s = if s.blockInMem (n + 1) then .next t else unspecified .dataOob s)
    (h : s.cfg.memSize ≤ s.effAddr n) : Raises i s (.unspecified .dataOob) := by
  have hout : ¬ s.blockInMem (n + 1) = true := fun hin => absurd ((blockInMem_succ_iff s n).1 hin) (by omega)
  refine raises_of_exec ?_
  rw [hexec, if_neg hout, unspecified, raise]

/-! ### Stores through `I` (R53, R58) -/

theorem readMem_writeAtI {s : State} {bs : List Byte} (hs : MemOk s) (h : s.effAddr 0 + bs.length ≤ s.cfg.memSize) {k : Nat}
    (hk : k < bs.length) : (s.writeAtI bs).readMem (s.effAddr k) = bs[k] := by
  have haddr : s.effAddr k = s.effAddr 0 + k := by simp only [State.effAddr, Nat.add_zero]
  rw [State.readMem, State.writeAtI_cfg, State.writeAtI_mem, Memory.read_writeBlock s.cfg h hs, dif_pos (by omega)]
  simp only [haddr, Nat.add_sub_cancel_left]

theorem memSameOutside_writeAtI {s : State} {bs : List Byte} (hs : MemOk s)
    (h : s.effAddr 0 + bs.length ≤ s.cfg.memSize) : MemSameOutside s (s.writeAtI bs) (s.effAddr 0) bs.length := by
  intro a ha
  rw [State.readMem, State.writeAtI_cfg, State.writeAtI_mem, Memory.read_writeBlock s.cfg h hs, dif_neg (by omega),
    State.readMem]

/-! ### LD B (R166) -/

@[simp] theorem length_bcdDigits (b : Byte) : (bcdDigits b).length = 3 := rfl

/-- The three bytes hold the digits whole: none exceeds 9. -/
theorem toNat_bcdDigits (b : Byte) : (bcdDigits b)[0].toNat = b.toNat / 100 ∧ (bcdDigits b)[1].toNat = b.toNat / 10 % 10 ∧
    (bcdDigits b)[2].toNat = b.toNat % 10 := by
  have hb := b.isLt
  exact ⟨Nat.mod_eq_of_lt (by omega), Nat.mod_eq_of_lt (by omega), Nat.mod_eq_of_lt (by omega)⟩

/-- Settles O25: a checked block of three bytes that hold the digits, or the raise before any is written. -/
theorem ldBStoresDecimalDigits : Obligations.LdBStoresDecimalDigits := by
  refine fun x => ⟨decodeWord_of_eq_encode (hexWordKk_eq_formatXkk 0xF x 0x33) rfl,
    fun s => ⟨raises_of_blockOutside rfl, fun h => ?_⟩⟩
  refine ⟨_, exec_of_blockInMem rfl h, rfl, rfl, fun _ _ => rfl, fun hs => ?_⟩
  have hfits : s.effAddr 0 + (bcdDigits (s.reg x)).length ≤ s.cfg.memSize := h
  have hstored : ∀ k (hk : k < 3), (s.writeAtI (bcdDigits (s.reg x))).readMem (s.effAddr k) = (bcdDigits (s.reg x))[k] :=
    fun _ hk => readMem_writeAtI hs hfits hk
  obtain ⟨hhundreds, htens, hones⟩ := toNat_bcdDigits (s.reg x)
  exact ⟨(congrArg BitVec.toNat (hstored 0 (by decide))).trans hhundreds,
    (congrArg BitVec.toNat (hstored 1 (by decide))).trans htens,
    (congrArg BitVec.toNat (hstored 2 (by decide))).trans hones, memSameOutside_writeAtI hs hfits⟩

/-! ### LD [I] and LD Vx,[I] (R167, R168) -/

/-- Settles O26: a checked block of `x + 1` bytes that hold the registers, or the raise before any is written. -/
theorem dumpStoresRegistersUpToVx : Obligations.DumpStoresRegistersUpToVx := by
  refine fun x => ⟨decodeWord_of_eq_encode (hexWordKk_eq_formatXkk 0xF x 0x55) rfl,
    fun s => ⟨raises_of_blockOutside rfl, fun h => ?_⟩⟩
  refine ⟨_, exec_dumpRegs h, rfl, rfl, fun _ _ => rfl, fun hs => ⟨fun k hk => readMem_dump hs h k hk, ?_⟩⟩
  have hlen := State.length_regBlock s x
  have hfits : s.effAddr 0 + (s.regBlock x).length ≤ s.cfg.memSize := by
    simp only [State.effAddr] at h ⊢
    omega
  rw [← hlen]
  exact memSameOutside_writeAtI hs hfits

/-- LD Vx,[I] completes when its last byte exists (R55, R168). -/
theorem exec_loadRegs {x : Reg} {s : State} (h : s.effAddr x.val < s.cfg.memSize) :
    exec (.loadRegs x) s = .next (s.loadBlock x).advance := exec_of_blockInMem rfl h

theorem State.reg_loadBlock_of_le (s : State) {x k : Reg} (h : k ≤ x) :
    (s.loadBlock x).reg k = s.readMem (s.effAddr k.val) := by rw [State.reg_loadBlock, if_pos h]

theorem State.reg_loadBlock_of_gt (s : State) {x k : Reg} (h : x < k) : (s.loadBlock x).reg k = s.reg k := by
  rw [State.reg_loadBlock, if_neg (not_le_of_gt h)]

/-- Settles O27: the registers up to `x` come from the checked block, or the raise comes before any is written. -/
theorem loadFillsRegistersUpToVx : Obligations.LoadFillsRegistersUpToVx :=
  fun x => ⟨decodeWord_of_eq_encode (hexWordKk_eq_formatXkk 0xF x 0x65) rfl,
    fun s => ⟨raises_of_blockOutside rfl, fun h => ⟨_, exec_loadRegs h, rfl, fun _ hk => s.reg_loadBlock_of_le hk,
      fun _ hk => s.reg_loadBlock_of_gt hk, rfl, fun _ => rfl⟩⟩⟩

/-- Settles O28: the load reads, at the same addresses of the same memory, the bytes the dump has left there. -/
theorem dumpThenLoadGivesTheRegistersBack : Obligations.DumpThenLoadGivesTheRegistersBack := by
  intro x s hs h
  refine ⟨_, exec_dumpRegs h, fun u hmem hcfg hi => ?_⟩
  have haddr : ∀ k, u.effAddr k = s.effAddr k := fun k => by rw [State.effAddr, hi, State.effAddr]
  have hread : ∀ a, u.readMem a = (s.writeAtI (s.regBlock x)).readMem a := fun a => by
    rw [State.readMem, hmem, hcfg]; rfl
  refine ⟨_, exec_loadRegs (by rwa [haddr, hcfg]), fun k hk => ?_⟩
  calc (u.loadBlock x).reg k = u.readMem (u.effAddr k.val) := u.reg_loadBlock_of_le hk
    _ = (s.writeAtI (s.regBlock x)).readMem (s.effAddr k.val) := by rw [hread, haddr]
    _ = s.reg k := readMem_dump hs h k hk

end Sys2Proof.Machine

/-! The frame scheduler family: what one drain iteration does to the budget, the bounds of the budget along a run, the end of a
frame and its length, and the host's operations between two frames. -/

namespace Sys2Proof.Machine

/-! ### One step of the drain loop (R186, R187) -/

/-- `t` follows `s` by a drain iteration that ran an instruction of variant `w` and charged it: budget was left, the loop goes
on, and the parameters and the host are as they were. -/
structure Charged (w : Variant) (s t : State) : Prop where
  budgetLeft : 0 < s.budget
  phase : t.phase = .draining
  budget : t.budget = s.budget - s.cfg.cost w
  cfg : t.cfg = s.cfg
  calls : t.calls = s.calls
  replies : t.replies = s.replies

theorem charged_charge {s u : State} {w : Variant} (hp : s.phase = .draining) (hb : 0 < s.budget) (hk : Keeps s u) :
    Charged w s (u.charge w) := by
  rw [State.charge_draining u w (hk.phase.trans hp)]
  exact ⟨hb, hk.phase.trans hp, by simp only [hk.budget, hk.cfg], hk.cfg, hk.calls, hk.replies⟩

/-- A step of the drain loop ends the frame, takes an error, or charges an instruction. -/
theorem step_draining_charged {s t : State} (hp : s.phase = .draining) (h : step s = .next t) :
    (s.budget ≤ 0 ∧ t = s.endFrame) ∨ (∃ e, t = s.takeError e) ∨ ∃ w, Charged w s t := by
  rcases step_draining_cases hp h with hend | herr | ⟨i, u, ⟨-, hb, -, -⟩, -, -, hk, rfl⟩
  · exact .inl hend
  · exact .inr (.inl herr)
  · exact .inr (.inr ⟨i.variant, charged_charge hp hb hk⟩)

theorem exists_exec (i : Instr) (s : State) : ∃ t, exec i s = .next t := by
  rcases exec_cases i s with ⟨e, -, h⟩ | ⟨t, h, -⟩
  · exact ⟨_, h⟩
  · exact ⟨t, h⟩

/-- Every step answers a next state: no instruction and no fetch has any other outcome (R207, R211). -/
theorem exists_step (s : State) : ∃ t, step s = .next t := by
  rcases step_cases s with ⟨-, hx⟩ | ⟨-, -, hx⟩ | ⟨-, -, -, hx⟩ | ⟨-, -, -, hx⟩ | ⟨-, hx⟩
  · exact ⟨_, hx⟩
  · exact ⟨_, hx⟩
  · exact ⟨_, hx⟩
  · exact ⟨_, hx⟩
  · rcases runWord_cases s s.fetchWord with ⟨e, -, hr⟩ | ⟨i, -, hr⟩
    · exact ⟨_, hx.trans hr⟩
    · obtain ⟨u, hu⟩ := exists_exec i s
      exact ⟨_, by rw [hx, hr, hu, chargeOutcome]⟩

/-- The frame ends without error exactly when no budget is left: an error tells the host something else, and a charged
instruction stays in the loop. -/
theorem step_eq_endFrame_iff {s : State} (hp : s.phase = .draining) : step s = .next s.endFrame ↔ s.budget ≤ 0 := by
  refine ⟨fun h => ?_, step_of_spent hp⟩
  rcases step_draining_charged hp h with ⟨hb, -⟩ | ⟨e, he⟩ | ⟨w, hw⟩
  · exact hb
  · simpa using congrArg State.replies he
  · cases hw.phase

/-! ### The bounds of the budget (R194) -/

/-- The bounds of R194 themselves: what `BudgetInv` claims while no `CYCLE` has failed. -/
def BudgetBounds (s : State) : Prop :=
  -(maxCost s.cfg : Int) < s.budget ∧ s.budget ≤ frameUs ∧ (s.phase = .idle → s.budget ≤ 0)

theorem budgetInv_iff (s : State) : BudgetInv s ↔ (NoErrorYet s → BudgetBounds s) := Iff.rfl

theorem maxCost_pos (c : Config) : 0 < maxCost c := Nat.succ_pos _

theorem BudgetBounds.of_zero {s : State} (h : s.budget = 0) : BudgetBounds s := by
  have hmax := maxCost_pos s.cfg
  refine ⟨?_, ?_, fun _ => ?_⟩
  · omega
  · rw [h]; decide
  · omega

/-- At frame start the budget is at most 0, so the frame's microseconds bring it to 16666 at most (R185). -/
theorem BudgetBounds.startFrame {s : State} (hs : BudgetBounds s) (hp : s.phase = .idle) (snapshot : BitVec 16) :
    BudgetBounds (s.startFrame snapshot) := by
  obtain ⟨hlow, -, hidle⟩ := hs
  have hzero := hidle hp
  rw [BudgetBounds, State.startFrame_cfg, State.startFrame_budget, State.startFrame_phase]
  simp only [frameUs] at *
  exact ⟨by omega, by omega, fun h => by cases h⟩

/-- RESET sets the budget to 0 or leaves the machine (R36, R231), CYCLE starts a frame, the two reads leave the budget. -/
theorem BudgetBounds.hostCall {s : State} (hs : BudgetBounds s) (hp : s.phase = .idle) (op : HostOp) :
    BudgetBounds (s.hostCall op) := by
  cases op with
  | reset program =>
    change BudgetBounds (s.resetOp program)
    rcases s.resetOp_cases program with hr | hr <;> rw [hr]
    · exact .of_zero rfl
    · exact hs
  | cycle snapshot => exact hs.startFrame hp snapshot
  | fbRead | toneRead => exact hs

theorem BudgetBounds.hostTurn {s : State} (hs : BudgetBounds s) (hp : s.phase = .idle) : BudgetBounds s.hostTurn := by
  cases hc : s.calls with
  | nil => rwa [State.hostTurn_nil hc]
  | cons op rest =>
    rw [State.hostTurn_cons hc]
    exact BudgetBounds.hostCall (s := { s with calls := rest }) hs hp op

/-- An instruction is charged only from a positive budget, so it takes the budget below 0 by less than the largest cost. -/
theorem BudgetBounds.charged {w : Variant} {s t : State} (hs : BudgetBounds s) (h : Charged w s t) : BudgetBounds t := by
  obtain ⟨-, hhigh, -⟩ := hs
  have hpos := h.budgetLeft
  have hcost := cost_le_maxCost s.cfg w
  rw [BudgetBounds, h.cfg, h.budget, h.phase]
  exact ⟨by omega, by omega, fun hidle => by cases hidle⟩

/-- A step after which no error has been reported keeps the bounds. An error would end the frame with budget left. -/
theorem BudgetBounds.of_step {s t : State} (hs : BudgetBounds s) (h : step s = .next t) (ht : NoErrorYet t) :
    BudgetBounds t := by
  cases hp : s.phase with
  | idle =>
    rw [eq_hostTurn_of_idle hp h]
    exact hs.hostTurn hp
  | draining =>
    rcases step_draining_charged hp h with ⟨hb, rfl⟩ | ⟨e, rfl⟩ | ⟨w, hw⟩
    · obtain ⟨hlow, hhigh, -⟩ := hs
      exact ⟨hlow, hhigh, fun _ => hb⟩
    · exact absurd (by simp) (ht e)
    · exact hs.charged hw

theorem State.replies_subset_hostCall (s : State) (op : HostOp) : s.replies ⊆ (s.hostCall op).replies := by
  cases op with
  | reset program =>
    change s.replies ⊆ (s.resetOp program).replies
    rcases s.resetOp_cases program with hr | hr <;> rw [hr] <;> exact List.subset_cons_self _ _
  | cycle snapshot => exact List.Subset.refl _
  | fbRead | toneRead => exact List.subset_cons_self _ _

/-- An answer once given stays given. -/
theorem replies_subset_of_step {s t : State} (h : step s = .next t) : s.replies ⊆ t.replies := by
  cases hp : s.phase with
  | idle =>
    rw [eq_hostTurn_of_idle hp h]
    cases hc : s.calls with
    | nil => rw [State.hostTurn_nil hc]; exact List.Subset.refl _
    | cons op rest =>
      rw [State.hostTurn_cons hc]
      exact State.replies_subset_hostCall { s with calls := rest } op
  | draining =>
    rcases step_draining_charged hp h with ⟨-, rfl⟩ | ⟨e, rfl⟩ | ⟨w, hw⟩
    · exact List.subset_cons_self _ _
    · exact List.subset_cons_self _ _
    · rw [hw.replies]; exact List.Subset.refl _

theorem NoErrorYet.of_step {s t : State} (ht : NoErrorYet t) (h : step s = .next t) : NoErrorYet s :=
  fun e he => ht e (replies_subset_of_step h he)

/-- Settles O55: while no CYCLE has failed none had before, so the bounds held, and every step without an error keeps them. -/
theorem stepKeepsTheBudgetBounds : Obligations.StepKeepsTheBudgetBounds := by
  intro s t hs h
  rw [budgetInv_iff] at hs ⊢
  intro ht
  exact (hs (ht.of_step h)).of_step h ht

/-- Settles O56: the budget is 0. -/
theorem resetBudgetIsWithinBounds : Obligations.ResetBudgetIsWithinBounds :=
  (budgetInv_iff State.reset).2 fun _ => .of_zero rfl

/-! ### Runs -/

theorem runsTo_zero_iff {s t : State} : RunsTo 0 s t ↔ t = s := by
  constructor
  · intro h
    cases h
    rfl
  · rintro rfl
    rfl

theorem runsTo_succ_of_step {n : Nat} {s u t : State} (h : step s = .next u) : RunsTo (n + 1) s t ↔ RunsTo n u t := by
  have hcore : core.step s = .next u := h
  simp only [RunsTo, Host.Core.run, hcore]

/-- A machine with a host that calls nothing more stays as it is (R192). -/
theorem step_of_noCall {s : State} (hp : s.phase = .idle) (hc : s.calls = []) : step s = .next s := by
  rw [step_of_idle hp, State.hostTurn_nil hc]

theorem eq_of_runsTo_of_noCall {n : Nat} {s t : State} (hp : s.phase = .idle) (hc : s.calls = []) (h : RunsTo n s t) :
    t = s := by
  induction n with
  | zero => exact runsTo_zero_iff.1 h
  | succ n ih => exact ih ((runsTo_succ_of_step (step_of_noCall hp hc)).1 h)

/-! ### The length of a frame (R188, R195) -/

/-- The loop ends within `n + 1` steps of a budget of at most `n`: an iteration that goes on has charged at least 1 (R10). -/
theorem exists_idle_of_budget_le (n : Nat) {s : State} (hp : s.phase = .draining) (hn : s.budget ≤ n) :
    ∃ k, k ≤ n + 1 ∧ ∃ t, RunsTo k s t ∧ t.phase = .idle := by
  induction n generalizing s with
  | zero =>
    exact ⟨1, by omega, _, (runsTo_succ_of_step (step_of_spent hp (by omega))).2 (runsTo_zero_iff.2 rfl), rfl⟩
  | succ n ih =>
    obtain ⟨u, hu⟩ := exists_step s
    have hone : u.phase = .idle → ∃ k, k ≤ n + 1 + 1 ∧ ∃ t, RunsTo k s t ∧ t.phase = .idle := fun hidle =>
      ⟨1, by omega, u, (runsTo_succ_of_step hu).2 (runsTo_zero_iff.2 rfl), hidle⟩
    rcases step_draining_charged hp hu with ⟨-, rfl⟩ | ⟨e, rfl⟩ | ⟨w, hw⟩
    · exact hone rfl
    · exact hone rfl
    · have hcost := cost_pos s.cfg w
      have hbudget := hw.budget
      obtain ⟨k, hk, t, ht, hidle⟩ := ih hw.phase (by omega)
      exact ⟨k + 1, by omega, t, (runsTo_succ_of_step hu).2 ht, hidle⟩

/-- Settles O57, by induction on the budget. -/
theorem cycleAlwaysReturns : Obligations.CycleAlwaysReturns :=
  fun s hp => exists_idle_of_budget_le s.budget.toNat hp s.budget.self_le_toNat

/-- Where no further call can enter the loop again, a run that ends in the loop has never left it: its first step charged an
instruction. -/
theorem charged_of_runsTo_draining {n : Nat} {s u t : State} (hp : s.phase = .draining) (hc : s.calls = [])
    (hu : step s = .next u) (hrun : RunsTo n u t) (ht : t.phase = .draining) : ∃ w, Charged w s u := by
  obtain ⟨-, -, -, hcalls⟩ := step_keeps_of_draining hp hu
  have hne : u.phase ≠ .idle := fun hidle => by
    rw [eq_of_runsTo_of_noCall hidle (hcalls.trans hc) hrun, hidle] at ht
    cases ht
  rcases step_draining_charged hp hu with ⟨-, rfl⟩ | ⟨e, rfl⟩ | hcharged
  · exact absurd rfl hne
  · exact absurd rfl hne
  · exact hcharged

/-- While the loop goes on, each of its `n` iterations found budget left and took `c` off it. -/
theorem budget_of_runsTo_draining {c n : Nat} {s t : State} (hp : s.phase = .draining) (hc : s.calls = [])
    (hcost : ∀ w, s.cfg.cost w = c) (hrun : RunsTo n s t) (ht : t.phase = .draining) :
    t.budget = s.budget - (n : Int) * c ∧ ∀ m, m < n → (m : Int) * c < s.budget := by
  induction n generalizing s with
  | zero =>
    rw [runsTo_zero_iff.1 hrun]
    exact ⟨by simp, fun m hm => absurd hm (Nat.not_lt_zero m)⟩
  | succ n ih =>
    obtain ⟨u, hu⟩ := exists_step s
    rw [runsTo_succ_of_step hu] at hrun
    obtain ⟨w, hw⟩ := charged_of_runsTo_draining hp hc hu hrun ht
    have hbudget : u.budget = s.budget - c := by rw [hw.budget, hcost]
    obtain ⟨hend, hleft⟩ := ih hw.phase (hw.calls.trans hc) (fun v => by rw [hw.cfg, hcost]) hrun
    refine ⟨?_, fun m hm => ?_⟩
    · rw [hend, hbudget]; push_cast; ring
    · cases m with
      | zero => simpa using hw.budgetLeft
      | succ m =>
        have hm' := hleft m (Nat.lt_of_succ_lt_succ hm)
        push_cast
        linarith

/-- Settles O58: the budget after `n` iterations, and the frame ends exactly when that is at or below 0. -/
theorem uniformCostFixesTheInstructionCount : Obligations.UniformCostFixesTheInstructionCount := by
  intro c n s t hp hc hcost hrun ht
  obtain ⟨hbudget, hleft⟩ := budget_of_runsTo_draining hp hc hcost hrun ht
  refine ⟨hbudget, hleft, ?_⟩
  calc s.budget ≤ (n : Int) * c ↔ t.budget ≤ 0 := by rw [hbudget, sub_nonpos]
    _ ↔ step t = .next t.endFrame := (step_eq_endFrame_iff ht).symm

/-- Settles O42: a spent budget ends the frame before anything is fetched. -/
theorem drainLoopEndsWithTheBudget : Obligations.DrainLoopEndsWithTheBudget :=
  fun _ hp hb => ⟨_, step_of_spent hp hb, rfl, rfl, rfl⟩

/-! ### One drain iteration (R187, R52) -/

theorem State.fetchWord_eq_ofNat (s : State) :
    s.fetchWord = BitVec.ofNat 16 ((s.readMem s.pc.toNat).toNat * 256 + (s.readMem (s.pc.toNat + 1)).toNat) := by
  rw [State.fetchWord, ← toNat_wordOfBytes, BitVec.ofNat_toNat, BitVec.setWidth_eq]

/-- Settles O35: the fetched word decodes to the instruction, whose outcome is charged only where the loop goes on. -/
theorem stepRunsTheDecodedInstruction : Obligations.StepRunsTheDecodedInstruction := by
  intro s i hp hb hpc hdec
  rw [← State.fetchWord_eq_ofNat] at hdec
  have hs : AboutToRun s s.fetchWord := ⟨hp, hb, hpc, rfl⟩
  refine ⟨fun t => stepRuns_of_decode hdec s t hs, fun t ht hidle => ?_, exists_exec i s⟩
  rw [step_of_decode hs hdec, ht, chargeOutcome, State.charge_idle _ _ hidle]

/-! ### The host's turn (R181 to R185, R190 to R192) -/

/-- An idle machine answers the host's next call. -/
theorem step_of_call {s : State} {op : HostOp} {rest : List HostOp} (hp : s.phase = .idle) (hc : s.calls = op :: rest) :
    step s = .next ({ s with calls := rest }.hostCall op) := by
  rw [step_of_idle hp, State.hostTurn_cons hc]

/-- Settles O41: the frame start, part by part. -/
theorem frameStartTicksThenAddsTheFrame : Obligations.FrameStartTicksThenAddsTheFrame := by
  intro s snapshot rest hp hc
  refine ⟨_, step_of_call hp hc, ?keys, toNat_tick s.dt, toNat_tick s.st, ?rise, ?kept, rfl, rfl, rfl, rfl, fun _ _ => rfl,
    fun _ => rfl⟩
  case keys => exact keyDown_applyKeys s snapshot
  case rise =>
    intro hst
    change (s.tone || s.st == 1) = true
    rw [hst, beq_self_eq_true, Bool.or_true]
  case kept =>
    intro hst
    change (s.tone || s.st == 1) = s.tone
    rw [beq_false_of_ne hst, Bool.or_false]

/-- Settles O43: each read is one host call, which answers the value it reads. -/
theorem hostReadsReturnTheirValue : Obligations.HostReadsReturnTheirValue :=
  fun _ _ hp => ⟨step_of_call hp, step_of_call hp⟩

/-- Settles O46: with no call there is no turn. -/
theorem idleMachineWaitsForTheHost : Obligations.IdleMachineWaitsForTheHost := fun _ => step_of_noCall

end Sys2Proof.Machine

/-! The exceptions family: the error an instruction or a drain iteration raises as a function of what a frame start leaves
alone, so that an error is precise and the next CYCLE meets it again. -/

namespace Sys2Proof.Machine

/-! ### The error of an instruction (R204, R205, R207) -/

/-- The error the instruction raises in a state, none where it completes. Only the registers, `I`, the stack's depth and the
parameters decide. -/
def instrError (i : Instr) (s : State) : Option FatalError :=
  match i with
  | .sys nnn => some (.unknownOpcode (sysWord nnn))
  | .ret => if 0 < s.sp.val then none else some .stackUnderflow
  | .call _ => if s.sp.val < 16 then none else some .stackOverflow
  | .skp x | .sknp x => if (s.reg x).toNat < 16 then none else some (.unspecified .keyIndex)
  | .ldF x => if (s.reg x).toNat < 16 then none else some (.unspecified .fontDigit)
  | .drw _ _ n => if s.blockInMem n.val then none else some (.unspecified .dataOob)
  | .ldB _ => if s.blockInMem 3 then none else some (.unspecified .dataOob)
  | .dumpRegs x | .loadRegs x => if s.blockInMem (x.val + 1) then none else some (.unspecified .dataOob)
  | _ => none

/-- `exec` takes the given error, which the instruction can raise; or, given none, tells the host nothing. -/
def ExecAnswers (i : Instr) (s : State) : Option FatalError → Prop
  | some e => CanRaise i e ∧ exec i s = .next (s.takeError e)
  | none => ∃ t, exec i s = .next t ∧ t.replies = s.replies

theorem ExecAnswers.ite {i : Instr} {s : State} {e : FatalError} {c : Prop} [Decidable c] (he : CanRaise i e)
    (hok : c → ∃ t, exec i s = .next t ∧ t.replies = s.replies) (hbad : ¬ c → exec i s = .next (s.takeError e)) :
    ExecAnswers i s (if c then none else some e) := by
  split
  case isTrue hc => exact hok hc
  case isFalse hc => exact ⟨he, hbad hc⟩

/-- `instrError` is the error `exec` takes: each instruction that can raise has one guard. -/
theorem exec_answers (i : Instr) (s : State) : ExecAnswers i s (instrError i s) := by
  cases i with
  | sys nnn => exact ⟨⟨rfl, rfl⟩, rfl⟩
  | ret => exact .ite rfl (fun h => ⟨_, exec_ret_of_pos h, rfl⟩) fun h => exec_ret_of_empty (by omega)
  | call nnn =>
    exact .ite rfl (fun h => ⟨_, exec_call_of_room nnn h, rfl⟩) fun h => exec_call_of_full nnn (by omega)
  | skp x =>
    exact .ite (by simp [CanRaise, Instr.variant]) (fun h => ⟨_, exec_skp_of_code h, rfl⟩)
      fun h => exec_skp_of_noCode (by omega)
  | sknp x =>
    exact .ite (by simp [CanRaise, Instr.variant]) (fun h => ⟨_, exec_sknp_of_code h, rfl⟩)
      fun h => exec_sknp_of_noCode (by omega)
  | ldF x => exact .ite rfl (fun h => ⟨_, exec_ldF_of_digit h, rfl⟩) fun h => exec_ldF_of_noDigit (by omega)
  | drw | ldB | dumpRegs | loadRegs =>
    exact .ite (by simp [CanRaise, Instr.variant]) (fun h => ⟨_, if_pos h, rfl⟩) fun h => if_neg h
  | ldVxK x =>
    cases hk : s.lowestKey with
    | none => exact ⟨_, exec_ldVxK_of_noKey hk, rfl⟩
    | some k => exact ⟨_, exec_ldVxK_of_lowest hk, rfl⟩
  | _ => exact ⟨_, rfl, rfl⟩

/-! ### The error of a drain iteration (R210) -/

/-- The error the next drain iteration raises, in the order of R210; none where it completes. -/
def State.drainError (s : State) : Option FatalError :=
  if s.cfg.memSize ≤ s.pc.toNat then some (.programCounterOutOfBounds s.pc)
  else if s.pc.toNat + 1 = s.cfg.memSize then some (.unspecified .fetchStraddle)
  else match decodeWord s.fetchWord with
    | .ok i => instrError i s
    | .error _ => some (.unknownOpcode s.fetchWord)

section
variable {s : State}

theorem State.drainError_of_pcOut (h : s.cfg.memSize ≤ s.pc.toNat) :
    s.drainError = some (.programCounterOutOfBounds s.pc) := if_pos h

theorem State.drainError_of_straddle (h : s.pc.toNat + 1 = s.cfg.memSize) :
    s.drainError = some (.unspecified .fetchStraddle) := by
  rw [State.drainError, if_neg (by omega), if_pos h]

theorem State.drainError_of_refused {e : DecodeError} (h : s.pc.toNat + 1 < s.cfg.memSize)
    (hw : decodeWord s.fetchWord = .error e) : s.drainError = some (.unknownOpcode s.fetchWord) := by
  rw [State.drainError, if_neg (by omega), if_neg (by omega), hw]

theorem State.drainError_of_decoded {i : Instr} (h : s.pc.toNat + 1 < s.cfg.memSize)
    (hw : decodeWord s.fetchWord = .ok i) : s.drainError = instrError i s := by
  rw [State.drainError, if_neg (by omega), if_neg (by omega), hw]

end

/-- A drain iteration takes the given error; or, given none, tells the host nothing. -/
def StepAnswers (s : State) : Option FatalError → Prop
  | some e => step s = .next (s.takeError e)
  | none => ∃ t, step s = .next t ∧ t.replies = s.replies

theorem stepAnswers_of_decode {s : State} {i : Instr} (hs : AboutToRun s s.fetchWord)
    (hw : decodeWord s.fetchWord = .ok i) : StepAnswers s (instrError i s) := by
  have hexec := exec_answers i s
  cases he : instrError i s with
  | some e =>
    rw [he] at hexec
    exact step_of_raise hs hw hexec.2
  | none =>
    rw [he] at hexec
    obtain ⟨t, ht, hreplies⟩ := hexec
    exact ⟨_, by rw [step_of_decode hs hw, ht, chargeOutcome], (State.charge_replies t _).trans hreplies⟩

/-- `drainError` is the error a step of the drain loop takes when budget is left. -/
theorem step_answers {s : State} (hp : s.phase = .draining) (hb : 0 < s.budget) : StepAnswers s s.drainError := by
  rcases Nat.lt_trichotomy (s.pc.toNat + 1) s.cfg.memSize with hpc | hpc | hpc
  · have hs : AboutToRun s s.fetchWord := ⟨hp, hb, hpc, rfl⟩
    cases hw : decodeWord s.fetchWord with
    | ok i =>
      rw [State.drainError_of_decoded hpc hw]
      exact stepAnswers_of_decode hs hw
    | error e =>
      rw [State.drainError_of_refused hpc hw]
      change step s = _
      rw [step_of_aboutToRun hs, State.runWord, hw, raise]
  · rw [State.drainError_of_straddle hpc]
    exact step_of_straddle hp hb hpc
  · have hout : s.cfg.memSize ≤ s.pc.toNat := by omega
    rw [State.drainError_of_pcOut hout]
    exact step_of_pcOut hp hb hout

theorem step_of_drainError {s : State} {e : FatalError} (hp : s.phase = .draining) (hb : 0 < s.budget)
    (he : s.drainError = some e) : step s = .next (s.takeError e) := by
  have hstep := step_answers hp hb
  rw [he] at hstep
  exact hstep

/-- Settles O36: no row matches, so the word itself is the error. -/
theorem illegalWordAbortsTheCycle : Obligations.IllegalWordAbortsTheCycle := by
  intro s w hs hw
  obtain ⟨hp, hb, hpc, rfl⟩ := hs
  have he := State.drainError_of_refused hpc (decodeWord_of_illegal hw)
  exact ⟨_, step_of_drainError hp hb he, raised_takeError s _⟩

/-! ### Where an error told to the host comes from (R211, R212) -/

/-- No host operation answers that a CYCLE has failed: a CYCLE answers only when its drain loop ends. -/
theorem State.hostCall_replies_ne (s : State) (op : HostOp) (e : FatalError) :
    (s.hostCall op).replies ≠ .cycleFailed e :: s.replies := by
  cases op with
  | reset program =>
    change (s.resetOp program).replies ≠ _
    rcases s.resetOp_cases program with hr | hr <;> rw [hr] <;> rintro ⟨⟩
  | cycle snapshot => exact (List.cons_ne_self _ _).symm
  | fbRead | toneRead => rintro ⟨⟩

theorem State.hostTurn_replies_ne (s : State) (e : FatalError) : s.hostTurn.replies ≠ .cycleFailed e :: s.replies := by
  cases hc : s.calls with
  | nil =>
    rw [State.hostTurn_nil hc]
    exact (List.cons_ne_self _ _).symm
  | cons op rest =>
    rw [State.hostTurn_cons hc]
    exact State.hostCall_replies_ne { s with calls := rest } op e

/-- A step that tells the host an error is a drain iteration that took exactly that error. -/
theorem takeError_of_reported {s t : State} {e : FatalError} (h : step s = .next t)
    (hr : t.replies = .cycleFailed e :: s.replies) :
    s.phase = .draining ∧ 0 < s.budget ∧ s.drainError = some e ∧ t = s.takeError e := by
  cases hp : s.phase with
  | idle =>
    rw [eq_hostTurn_of_idle hp h] at hr
    exact absurd hr (s.hostTurn_replies_ne e)
  | draining =>
    rcases Int.lt_or_le 0 s.budget with hb | hb
    · have hstep := step_answers hp hb
      cases he : s.drainError with
      | some e' =>
        rw [he] at hstep
        cases h.symm.trans hstep
        cases hr
        exact ⟨rfl, hb, rfl, rfl⟩
      | none =>
        rw [he] at hstep
        obtain ⟨u, hu, hreplies⟩ := hstep
        cases h.symm.trans hu
        exact absurd (hr.symm.trans hreplies) (List.cons_ne_self _ _)
    · cases h.symm.trans (step_of_spent hp hb)
      cases hr

/-- Settles O38: the error was taken in the state as it was. -/
theorem errorsArePrecise : Obligations.ErrorsArePrecise := by
  intro s t e h hr
  obtain ⟨hp, hb, -, rfl⟩ := takeError_of_reported h hr
  exact ⟨hp, hb, raised_takeError s e⟩

/-! ### The cause of an error (R210) -/

theorem cause_of_drainError {s : State} {e : FatalError} (hpc : s.pc.toNat + 1 < s.cfg.memSize)
    (he : s.drainError = some e) :
    (IllegalWord s.fetchWord ∧ e = .unknownOpcode s.fetchWord) ∨ ∃ i, decodeWord s.fetchWord = .ok i ∧ CanRaise i e := by
  by_cases hw : IllegalWord s.fetchWord
  · rw [State.drainError_of_refused hpc (decodeWord_of_illegal hw)] at he
    cases he
    exact .inl ⟨hw, rfl⟩
  · obtain ⟨i, hi⟩ := decodeWord_of_not_illegal hw
    rw [State.drainError_of_decoded hpc hi] at he
    have hexec := exec_answers i s
    rw [he] at hexec
    exact .inr ⟨i, hi, hexec.1⟩

/-- Settles O40: every step answers, and the error told is `drainError`, read off in each of the three places of `pc`. -/
theorem everyStepAnswersAndErrorsHaveTheirCause : Obligations.EveryStepAnswersAndErrorsHaveTheirCause := by
  refine fun s => ⟨exists_step s, fun t e h hr => ?_⟩
  obtain ⟨-, -, he, -⟩ := takeError_of_reported h hr
  refine ⟨fun hpc => ?_, fun hpc => ?_, fun hpc => cause_of_drainError hpc he⟩
  · exact Option.some.inj (he.symm.trans (State.drainError_of_pcOut hpc))
  · exact Option.some.inj (he.symm.trans (State.drainError_of_straddle hpc))

/-! ### The CYCLE after an error (R213) -/

/-- `u` agrees with `s` in all that decides the error of the next drain iteration. -/
structure SameCause (s u : State) : Prop where
  v : u.v = s.v
  i : u.i = s.i
  pc : u.pc = s.pc
  sp : u.sp = s.sp
  mem : u.mem = s.mem
  cfg : u.cfg = s.cfg

theorem SameCause.instrError_eq {s u : State} (h : SameCause s u) (i : Instr) : instrError i u = instrError i s := by
  have hreg : ∀ x, u.reg x = s.reg x := State.reg_congr h.v
  have hblock : ∀ n, u.blockInMem n = s.blockInMem n := fun n => by
    simp only [State.blockInMem, State.effAddr, h.cfg, h.i]
  cases i with
  | ret | call => simp only [instrError, h.sp]
  | skp | sknp | ldF => simp only [instrError, hreg]
  | drw | ldB | dumpRegs | loadRegs => simp only [instrError, hblock]
  | _ => rfl

theorem SameCause.drainError_eq {s u : State} (h : SameCause s u) : u.drainError = s.drainError := by
  have hfetch : u.fetchWord = s.fetchWord := by simp only [State.fetchWord, State.readMem, h.mem, h.cfg, h.pc]
  simp only [State.drainError, h.cfg, h.pc, hfetch, h.instrError_eq]

/-- The state a CYCLE starts its drain loop in, called after the error was taken in `s`. -/
def State.frameAfterError (s : State) (e : FatalError) (snapshot : BitVec 16) (rest : List HostOp) : State :=
  { s.takeError e with calls := rest }.startFrame snapshot

section
variable (s : State) (e : FatalError) (snapshot : BitVec 16) (rest : List HostOp)

theorem step_cycle_takeError :
    step { s.takeError e with calls := .cycle snapshot :: rest } = .next (s.frameAfterError e snapshot rest) :=
  step_of_call (s := { s.takeError e with calls := .cycle snapshot :: rest }) rfl rfl

@[simp] theorem State.frameAfterError_budget : (s.frameAfterError e snapshot rest).budget = s.budget + frameUs := by
  rw [State.frameAfterError, State.startFrame_budget, State.takeError_budget]

@[simp] theorem State.frameAfterError_phase : (s.frameAfterError e snapshot rest).phase = .draining := by
  rw [State.frameAfterError, State.startFrame_phase]

@[simp] theorem State.frameAfterError_pc : (s.frameAfterError e snapshot rest).pc = s.pc := by
  rw [State.frameAfterError, State.startFrame_pc, State.takeError_pc]

@[simp] theorem State.frameAfterError_replies :
    (s.frameAfterError e snapshot rest).replies = .cycleFailed e :: s.replies := by
  rw [State.frameAfterError, State.startFrame_replies, State.takeError_replies]

/-- Neither taking an error nor starting a frame touches what the error of the next iteration depends on. -/
theorem State.sameCause_frameAfterError : SameCause s (s.frameAfterError e snapshot rest) := by
  constructor <;> simp [State.frameAfterError]

/-- The first iteration after the error meets it again: budget was left, and a frame's is added. -/
theorem step_frameAfterError (hb : 0 < s.budget) (he : s.drainError = some e) :
    step (s.frameAfterError e snapshot rest) = .next ((s.frameAfterError e snapshot rest).takeError e) := by
  have hbudget : 0 < (s.frameAfterError e snapshot rest).budget := by
    rw [State.frameAfterError_budget, frameUs]
    omega
  exact step_of_drainError (s.frameAfterError_phase e snapshot rest) hbudget
    ((s.sameCause_frameAfterError e snapshot rest).drainError_eq.trans he)

end

/-- Settles O39: the frame start takes the call, and the first iteration takes the error with `pc` where it was. -/
theorem failedCycleFailsAgain : Obligations.FailedCycleFailsAgain := by
  intro s t e _ hb h hr snapshot rest
  obtain ⟨-, -, he, rfl⟩ := takeError_of_reported h hr
  exact ⟨_, _, step_cycle_takeError s e snapshot rest, State.frameAfterError_phase s e snapshot rest,
    step_frameAfterError s e snapshot rest hb he, by simp, by simp⟩

theorem State.hostCall_calls (s : State) (op : HostOp) : (s.hostCall op).calls = s.calls := by
  cases op with
  | reset program =>
    change (s.resetOp program).calls = s.calls
    rcases s.resetOp_cases program with hr | hr <;> rw [hr] <;> rfl
  | cycle | fbRead | toneRead => rfl

/-- Settles O59: the error leaves an idle machine, which answers any call; a frame begun on it meets the error again. -/
theorem unspecifiedIsReportedLikeTheOtherErrors : Obligations.UnspecifiedIsReportedLikeTheOtherErrors := by
  intro s t tag h hr
  obtain ⟨-, hb, he, rfl⟩ := takeError_of_reported h hr
  exact ⟨raised_takeError s _, fun op rest => ⟨_, step_of_call rfl rfl, State.hostCall_calls _ op⟩, fun snapshot rest =>
    ⟨_, _, step_cycle_takeError s _ snapshot rest, step_frameAfterError s _ snapshot rest hb he, raised_takeError _ _⟩⟩

end Sys2Proof.Machine

/-! The reset family: the machine a RESET leaves, and what moves the keys and the timers. -/

namespace Sys2Proof.Machine

/-! ### RESET (R230 to R233, R36) -/

/-- The program's block exists exactly when it is no longer than MEM_SIZE - LOAD_ADDR: there is always room at LOAD_ADDR
(R231). -/
theorem blockFits_loadAddr_iff (c : Config) (n : Nat) : blockFits c loadAddr n = true ↔ n ≤ c.memSize - 0x200 := by
  have hroom := Config.memSize_ge c
  rw [blockFits_iff]
  simp only [loadAddr, minMemSize] at hroom ⊢
  omega

theorem State.resetOp_of_fits {s : State} {program : List Byte} (h : program.length ≤ s.cfg.memSize - 0x200) :
    s.resetOp program = (s.fresh program).reply .machineReady :=
  if_pos ((blockFits_loadAddr_iff s.cfg _).2 h)

theorem State.resetOp_of_tooLarge {s : State} {program : List Byte} (h : s.cfg.memSize - 0x200 < program.length) :
    s.resetOp program = s.reply (.loadFailed .programTooLarge) :=
  if_neg fun hfits => absurd ((blockFits_loadAddr_iff s.cfg _).1 hfits) (Nat.not_le.2 h)

/-- Below LOAD_ADDR and behind the program a fresh machine holds the reset content (R36, R232). -/
theorem readMem_fresh_outside (s : State) {program : List Byte} (h : 0x200 + program.length ≤ s.cfg.memSize) {a : Nat}
    (ha : a < 0x200 ∨ 0x200 + program.length ≤ a) : (s.fresh program).readMem a = unwritten s.cfg a := by
  rw [read_fresh s program h, dif_neg (by omega)]

/-- A fresh machine is a blank one but for the program in its memory (R36, R232, R233). -/
theorem isFresh_fresh (s : State) {program : List Byte} (h : 0x200 + program.length ≤ s.cfg.memSize) :
    IsFresh (s.fresh program) program := by
  obtain ⟨hreg, hi, hpc, hstack, hsp, hkeys, hdt, hst, htone, hfb, hbudget, hphase, -⟩ := isFresh_blank s.cfg
  refine ⟨hreg, hi, hpc, hstack, hsp, hkeys, hdt, hst, htone, hfb, hbudget, hphase, fun j hj => ?font, fun j hj => ?program,
    fun a hfont hprogram => ?zero⟩
  case font =>
    have hbase := s.cfg.fontBase.isLt
    exact (readMem_fresh_outside s h (.inl (by omega))).trans (unwritten_font s.cfg j hj)
  case program =>
    rw [read_fresh s program h, dif_pos (by omega)]
    simp only [Nat.add_sub_cancel_left]
  case zero => exact (readMem_fresh_outside s h hprogram).trans (unwritten_outside_font s.cfg a hfont)

/-- What the host is told is no part of the reset table. -/
theorem IsFresh.reply {t : State} {program : List Byte} (h : IsFresh t program) (r : Reply) :
    IsFresh (t.reply r) program := h

/-- Settles O44: the call is a RESET, which installs a fresh machine when the program fits and otherwise only answers. -/
theorem resetLoadsTheProgramOrRefusesIt : Obligations.ResetLoadsTheProgramOrRefusesIt := by
  intro s program rest hp hc
  have hstep : step s = .next ({ s with calls := rest }.resetOp program) := step_of_call hp hc
  refine ⟨fun hfits => ?_, fun hlarge => ?_⟩
  · rw [State.resetOp_of_fits (s := { s with calls := rest }) hfits] at hstep
    have hend : 0x200 + program.length ≤ s.cfg.memSize := by
      have hroom := Config.memSize_ge s.cfg
      simp only [minMemSize] at hroom
      omega
    exact ⟨_, hstep, (isFresh_fresh { s with calls := rest } hend).reply _, rfl, rfl, rfl, rfl⟩
  · rwa [State.resetOp_of_tooLarge (s := { s with calls := rest }) hlarge] at hstep

/-! ### What moves the keys and the timers (R236, R237) -/

theorem eq_ldDTVx_of_variant {i : Instr} (h : i.variant = .LD_DT_VX) : ∃ x, i = .ldDTVx x := by
  cases i with
  | ldDTVx x => exact ⟨x, rfl⟩
  | _ => cases h

theorem eq_ldSTVx_of_variant {i : Instr} (h : i.variant = .LD_ST_VX) : ∃ x, i = .ldSTVx x := by
  cases i with
  | ldSTVx x => exact ⟨x, rfl⟩
  | _ => cases h

/-- In the host's turn either a frame starts or the machine is reset, or the keys and the timers stay (R190 to R192). -/
theorem movingCall_or_keeps_of_idle {s t : State} (hp : s.phase = .idle) (h : step s = .next t) :
    (∃ op rest, s.calls = op :: rest ∧ op ≠ .fbRead ∧ op ≠ .toneRead) ∨ t.keys = s.keys ∧ t.dt = s.dt ∧ t.st = s.st := by
  rw [eq_hostTurn_of_idle hp h]
  cases hc : s.calls with
  | nil => exact .inr (by simp [State.hostTurn_nil hc])
  | cons op rest =>
    rw [State.hostTurn_cons hc]
    cases op with
    | reset | cycle => exact .inl ⟨_, rest, rfl, nofun, nofun⟩
    | fbRead | toneRead => exact .inr ⟨rfl, rfl, rfl⟩

/-- In the drain loop a timer is written by its own instruction alone (R28, R38). -/
theorem timerWriter_of_draining {s t : State} (hp : s.phase = .draining) (h : step s = .next t) :
    (t.dt ≠ s.dt → ∃ x, decodeWord s.fetchWord = .ok (.ldDTVx x)) ∧
      (t.st ≠ s.st → ∃ x, decodeWord s.fetchWord = .ok (.ldSTVx x)) := by
  rcases step_draining_cases hp h with ⟨-, rfl⟩ | ⟨e, rfl⟩ | ⟨i, u, -, hdec, hu, -, rfl⟩
  · exact ⟨fun hne => absurd rfl hne, fun hne => absurd rfl hne⟩
  · exact ⟨fun hne => absurd rfl hne, fun hne => absurd rfl hne⟩
  · obtain ⟨-, -, -, hdt, hst, -⟩ := instructionsWriteOnlyTheirOwnState i s u hu
    rw [State.charge_dt, State.charge_st, hdec]
    refine ⟨fun hne => ?_, fun hne => ?_⟩
    · obtain ⟨x, rfl⟩ := eq_ldDTVx_of_variant (hdt hne)
      exact ⟨x, rfl⟩
    · obtain ⟨x, rfl⟩ := eq_ldSTVx_of_variant (hst hne)
      exact ⟨x, rfl⟩

/-- Settles O49: between frames only CYCLE and RESET reach keys and timers; in the drain loop no instruction reaches the keys,
and one each reaches a timer. -/
theorem keysAndTimersMoveOnlyAtFrameStartsOrReset : Obligations.KeysAndTimersMoveOnlyAtFrameStartsOrReset := by
  intro s t h
  cases hp : s.phase with
  | idle =>
    rcases movingCall_or_keeps_of_idle hp h with hcall | ⟨hkeys, hdt, hst⟩
    · exact ⟨fun _ => ⟨rfl, hcall⟩, fun _ => .inl ⟨rfl, hcall⟩, fun _ => .inl ⟨rfl, hcall⟩⟩
    · exact ⟨fun hne => absurd hkeys hne, fun hne => absurd hdt hne, fun hne => absurd hst hne⟩
  | draining =>
    obtain ⟨hkeys, -⟩ := step_keeps_of_draining hp h
    obtain ⟨hdt, hst⟩ := timerWriter_of_draining hp h
    exact ⟨fun hne => absurd hkeys hne, fun hne => .inr ⟨rfl, hdt hne⟩, fun hne => .inr ⟨rfl, hst hne⟩⟩

end Sys2Proof.Machine
